-- ==== Sys2Proof/Word.lean ====
section
/-! DEFINITION. The word types of the machine (R7): 32-bit words, bytes, 26-bit byte addresses, 24-bit word addresses,
4-bit register numbers, and the plainest reading of bits. -/

namespace Sys2Proof

/-- A 32-bit register or data word (R7). -/
abbrev Word := BitVec 32

/-- An 8-bit byte (R7). -/
abbrev Byte := BitVec 8

/-- A byte address: 26 bits (R7, R34). -/
abbrev Addr := BitVec 26

/-- The PC field of R15: a 24-bit word address (R25). -/
abbrev PcWord := BitVec 24

/-- A register number: a 4-bit field (R95). -/
abbrev Reg := BitVec 4

/-- Bit `i` of a bit vector. -/
abbrev bit {n : Nat} (w : BitVec n) (i : Nat) : Bool := w.getLsbD i

/-- The `len` bits of `w` that start at bit `start`. -/
abbrev field {n : Nat} (w : BitVec n) (start len : Nat) : BitVec len := w.extractLsb' start len

/-- A Boolean as one bit. -/
abbrev bit1 (b : Bool) : BitVec 1 := BitVec.ofBool b

end Sys2Proof
end

