-- ==== Sys2Proof/Config.lean ====
section
/-! DEFINITION. What a platform fixes (the parameters of R8) and the free values of the model (log 8). -/

namespace Sys2Proof

/-- The processor of the platform (R1, R8, D1). -/
inductive Cpu where
  /-- VL86C010: no cache, no SWP, no coprocessor 15. -/
  | cpu010
  /-- VL86C020: cache, SWP, coprocessor 15. -/
  | cpu020
  deriving DecidableEq, Repr

/-- The amounts of RAM that MEMC supports (R310). -/
inductive RamSize where
  | quarterMeg | halfMeg | oneMeg | twoMeg | fourMeg
  deriving DecidableEq, Repr

/-- The number of bytes of RAM fitted (R310). -/
def RamSize.bytes : RamSize → Nat
  | .quarterMeg => 0x40000
  | .halfMeg => 0x80000
  | .oneMeg => 0x100000
  | .twoMeg => 0x200000
  | .fourMeg => 0x400000

/-- The PageSize code that matches the RAM fitted (R310). -/
def RamSize.pageCode : RamSize → BitVec 2
  | .quarterMeg => 0
  | .halfMeg => 0
  | .oneMeg => 1
  | .twoMeg => 2
  | .fourMeg => 3

/-- The input pins of IOC that the outside can move (R405, R403). -/
inductive Pin where
  /-- -ILn, active low. -/
  | il (n : Fin 8)
  /-- -IF, falling edge. -/
  | ifPin
  /-- IR, rising edge. -/
  | ir
  /-- FHn, active high. -/
  | fh (n : Fin 2)
  /-- -FL, active low. -/
  | fl
  /-- Control pin Cn. -/
  | c (n : Fin 6)
  deriving DecidableEq, Repr

/-- The level a pin rests at when nothing is connected. The level inputs are inactive (R433). DESIGN CHOICE (log 30): R433
says only that the edge inputs never move; -IF rests high and IR low. -/
def Pin.rest : Pin → Bool
  | .il _ => true
  | .ifPin => true
  | .ir => false
  | .fh _ => false
  | .fl => true
  | .c _ => true

/-- The place of a pin in the word of externally driven levels. -/
def Pin.index : Pin → Nat
  | .il n => n
  | .ifPin => 8
  | .ir => 9
  | .fh n => 10 + n
  | .fl => 12
  | .c n => 13 + n

/-- What drives an IOC pin (IOC_WIRING, R433, D31). -/
inductive Source where
  /-- Driven from outside: the level is in `Ioc.ext`. -/
  | outside
  /-- MEMC's -SIRQ output (R331). -/
  | memcSirq
  /-- VIDC's FLBK output (R388). -/
  | vidcFlbk
  /-- A constant level. -/
  | level (b : Bool)
  deriving DecidableEq, Repr

/-- Which address bits reach IOC's select inputs (IOC_MAP, R401, D20). -/
structure IocMap where
  cs : Nat := 21
  t1 : Nat := 20
  t0 : Nat := 19
  b2 : Nat := 18
  b1 : Nat := 17
  b0 : Nat := 16
  a6 : Nat := 6
  a5 : Nat := 5
  a4 : Nat := 4
  a3 : Nat := 3
  a2 : Nat := 2
  deriving DecidableEq, Repr

/-- The parameters of R8. A step never changes them. DUAL_MEMC is false throughout (R302, D5). -/
structure Platform where
  cpu : Cpu
  hasMemc : Bool
  hasVidc : Bool
  hasIoc : Bool
  ram : RamSize
  /-- Length of ROM_LOW in bytes; the area is indexed modulo it (R304). -/
  romLowLen : Nat
  /-- Length of ROM_HIGH in bytes (R304). -/
  romHighLen : Nat
  iocMap : IocMap
  /-- Connected pins of IOC; a pin not listed rests (R433). -/
  wiring : List (Pin × Source)
  deriving DecidableEq, Repr

/-- DESIGN CHOICE (log 1): the platform of State.reset: CPU-020 with all three support chips (D3), 0.5 Mbyte of RAM (the
size that the reset page size of 4 Kbytes matches), ROM filling both areas, default IOC_MAP (D20), nothing wired (D31). -/
def Config.platform : Platform where
  cpu := .cpu020
  hasMemc := true
  hasVidc := true
  hasIoc := true
  ram := .halfMeg
  romLowLen := 0x400000
  romHighLen := 0x800000
  iocMap := {}
  wiring := []

/-- The identity that coprocessor 15 register 0 reads as (R272). -/
def Config.cp15Identity : Word := 0x41560300#32

/-- FREE VALUE (log 8): the word drawn at position `k` of draw number `n`. It has no body: no proof can see it. -/
opaque Config.freeWord : Nat → Nat → Word

/-- FREE VALUE (log 8, R308 U33): contents of RAM after an access that leaves every byte of it open, by draw number. -/
opaque Config.freeRam : Nat → List (Nat × Byte)

/-- A free bit: bit 0 of the free word. -/
def Config.freeBit (n k : Nat) : Bool := bit (Config.freeWord n k) 0

end Sys2Proof
end

