-- ==== Sys2Proof/Syntax.lean ====
section
/-! DEFINITION. The instructions: one constructor per row of spec/opcode_table.json (R71, R96), with every bit of the word
that the row leaves free kept as a field, the ignored ones too (R91, log 37). -/

namespace Sys2Proof

/-- The sixteen conditions (R72), in the order of their codes. -/
inductive Cond where
  | eq | ne | cs | cc | mi | pl | vs | vc | hi | ls | ge | lt | gt | le | al | nv
  deriving DecidableEq, Repr

/-- The four shift types (R77), in the order of their codes. -/
inductive ShiftType where
  | lsl | lsr | asr | ror
  deriving DecidableEq, Repr

/-- Operand 2 of data processing (R77, R78). -/
inductive Op2 where
  /-- `imm rotate imm8`: an 8-bit value rotated right by twice `rotate` (R78). -/
  | imm (rotate : BitVec 4) (imm8 : BitVec 8)
  /-- Rm shifted by an amount in the instruction (R77). -/
  | shImm (amt : BitVec 5) (ty : ShiftType) (rm : Reg)
  /-- Rm shifted by the bottom byte of Rs (R77). -/
  | shReg (rs : Reg) (ty : ShiftType) (rm : Reg)
  deriving DecidableEq, Repr

/-- The offset of LDR/STR (R82). -/
inductive Offset where
  | imm (off : BitVec 12)
  | reg (amt : BitVec 5) (ty : ShiftType) (rm : Reg)
  deriving DecidableEq, Repr

/-- One constructor per row of the opcode table. `c` is the condition, `sb` the S bit, and the other names are the field
names of R71: `p u w n` are the P, U, W and N bits. -/
inductive Instr where
  | and (c : Cond) (sb : Bool) (rn rd : Reg) (op2 : Op2)
  | eor (c : Cond) (sb : Bool) (rn rd : Reg) (op2 : Op2)
  | sub (c : Cond) (sb : Bool) (rn rd : Reg) (op2 : Op2)
  | rsb (c : Cond) (sb : Bool) (rn rd : Reg) (op2 : Op2)
  | add (c : Cond) (sb : Bool) (rn rd : Reg) (op2 : Op2)
  | adc (c : Cond) (sb : Bool) (rn rd : Reg) (op2 : Op2)
  | sbc (c : Cond) (sb : Bool) (rn rd : Reg) (op2 : Op2)
  | rsc (c : Cond) (sb : Bool) (rn rd : Reg) (op2 : Op2)
  | tst (c : Cond) (sb : Bool) (rn rd : Reg) (op2 : Op2)
  | teq (c : Cond) (sb : Bool) (rn rd : Reg) (op2 : Op2)
  | cmp (c : Cond) (sb : Bool) (rn rd : Reg) (op2 : Op2)
  | cmn (c : Cond) (sb : Bool) (rn rd : Reg) (op2 : Op2)
  | orr (c : Cond) (sb : Bool) (rn rd : Reg) (op2 : Op2)
  | mov (c : Cond) (sb : Bool) (rn rd : Reg) (op2 : Op2)
  | bic (c : Cond) (sb : Bool) (rn rd : Reg) (op2 : Op2)
  | mvn (c : Cond) (sb : Bool) (rn rd : Reg) (op2 : Op2)
  | mul (c : Cond) (sb : Bool) (rd rn rs rm : Reg)
  | mla (c : Cond) (sb : Bool) (rd rn rs rm : Reg)
  /-- The unallocated multiply space (R90): bits 23:8, 6:5 and 3:0 of the word. -/
  | mulSpace (c : Cond) (hi : BitVec 16) (mid : BitVec 2) (lo : BitVec 4)
  | swp (c : Cond) (rn rd rm : Reg)
  | swpb (c : Cond) (rn rd rm : Reg)
  | ldr (c : Cond) (p u w : Bool) (rn rd : Reg) (off : Offset)
  | ldrb (c : Cond) (p u w : Bool) (rn rd : Reg) (off : Offset)
  | str (c : Cond) (p u w : Bool) (rn rd : Reg) (off : Offset)
  | strb (c : Cond) (p u w : Bool) (rn rd : Reg) (off : Offset)
  | stm (c : Cond) (p u sb w : Bool) (rn : Reg) (list : BitVec 16)
  | ldm (c : Cond) (p u sb w : Bool) (rn : Reg) (list : BitVec 16)
  | b (c : Cond) (off : BitVec 24)
  | bl (c : Cond) (off : BitVec 24)
  | stc (c : Cond) (p u n w : Bool) (rn crd cp : Reg) (off : BitVec 8)
  | ldc (c : Cond) (p u n w : Bool) (rn crd cp : Reg) (off : BitVec 8)
  | cdo (c : Cond) (opc : BitVec 4) (crn crd cp : Reg) (aux : BitVec 3) (crm : Reg)
  | mcr (c : Cond) (opc : BitVec 3) (crn rd cp : Reg) (aux : BitVec 3) (crm : Reg)
  | mrc (c : Cond) (opc : BitVec 3) (crn rd cp : Reg) (aux : BitVec 3) (crm : Reg)
  | swi (c : Cond) (comment : BitVec 24)
  /-- UND-A (R89): bits 23:8, 6:5 and 3:0 of the word. -/
  | undA (c : Cond) (hi : BitVec 16) (mid : BitVec 2) (lo : BitVec 4)
  /-- UND-B (R89): bits 24:5 and 3:0 of the word. -/
  | undB (c : Cond) (hi : BitVec 20) (lo : BitVec 4)
  deriving DecidableEq, Repr

/-- The condition field of an instruction (R72). -/
def Instr.cond : Instr → Cond
  | .and c _ _ _ _ | .eor c _ _ _ _ | .sub c _ _ _ _ | .rsb c _ _ _ _ | .add c _ _ _ _ | .adc c _ _ _ _
  | .sbc c _ _ _ _ | .rsc c _ _ _ _ | .tst c _ _ _ _ | .teq c _ _ _ _ | .cmp c _ _ _ _ | .cmn c _ _ _ _
  | .orr c _ _ _ _ | .mov c _ _ _ _ | .bic c _ _ _ _ | .mvn c _ _ _ _ | .mul c _ _ _ _ _ | .mla c _ _ _ _ _
  | .mulSpace c _ _ _ | .swp c _ _ _ | .swpb c _ _ _ | .ldr c _ _ _ _ _ _ | .ldrb c _ _ _ _ _ _ | .str c _ _ _ _ _ _
  | .strb c _ _ _ _ _ _ | .stm c _ _ _ _ _ _ | .ldm c _ _ _ _ _ _ | .b c _ | .bl c _ | .stc c _ _ _ _ _ _ _ _
  | .ldc c _ _ _ _ _ _ _ _ | .cdo c _ _ _ _ _ _ | .mcr c _ _ _ _ _ _ | .mrc c _ _ _ _ _ _ | .swi c _ | .undA c _ _ _
  | .undB c _ _ => c

end Sys2Proof
end

