-- ==== Sys2Proof/WellFormed.lean ====
section
/-! DEFINITION. Which terms of `Instr` stand for a word of the processor: the two patterns that a term alone does not fix
(the unallocated multiply space, UND-A) and the instructions that only CPU-020 has (R74, R80, R89, R90). -/

namespace Sys2Proof

/-- The bits of UND-A that are the SWP pattern on CPU-020 (R80, R251): bit 23 = 0, bits 21:20 = 00, bits 11:8 = 0000,
bits 6:5 = 00, given bits 23:8 and 6:5. -/
def swpPattern (hi : BitVec 16) (mid : BitVec 2) : Bool :=
  !(bit hi 15) && (field hi 12 2 == 0#2) && (field hi 0 4 == 0#4) && (mid == 0#2)

/-- The bits of the multiply space that are MUL or MLA (R79): bits 23:22 = 00 and bits 6:5 = 00. -/
def mulPattern (hi : BitVec 16) (mid : BitVec 2) : Bool :=
  (field hi 14 2 == 0#2) && (mid == 0#2)

/-- A term that is some word's instruction on processor `cpu`. -/
def Instr.wf (cpu : Cpu) : Instr → Bool
  | .mulSpace _ hi mid _ => !(mulPattern hi mid)
  | .undA _ hi mid _ => !(cpu == .cpu020 && swpPattern hi mid)
  | .swp _ _ _ _ => cpu == .cpu020
  | .swpb _ _ _ _ => cpu == .cpu020
  | .and _ _ _ _ _ | .eor _ _ _ _ _ | .sub _ _ _ _ _ | .rsb _ _ _ _ _ | .add _ _ _ _ _ | .adc _ _ _ _ _
  | .sbc _ _ _ _ _ | .rsc _ _ _ _ _ | .tst _ _ _ _ _ | .teq _ _ _ _ _ | .cmp _ _ _ _ _ | .cmn _ _ _ _ _
  | .orr _ _ _ _ _ | .mov _ _ _ _ _ | .bic _ _ _ _ _ | .mvn _ _ _ _ _ => true
  | .mul _ _ _ _ _ _ | .mla _ _ _ _ _ _ => true
  | .ldr _ _ _ _ _ _ _ | .ldrb _ _ _ _ _ _ _ | .str _ _ _ _ _ _ _ | .strb _ _ _ _ _ _ _ => true
  | .stm _ _ _ _ _ _ _ | .ldm _ _ _ _ _ _ _ => true
  | .b _ _ | .bl _ _ => true
  | .stc _ _ _ _ _ _ _ _ _ | .ldc _ _ _ _ _ _ _ _ _ => true
  | .cdo _ _ _ _ _ _ _ | .mcr _ _ _ _ _ _ _ | .mrc _ _ _ _ _ _ _ => true
  | .swi _ _ => true
  | .undB _ _ _ => true

end Sys2Proof
end

