-- ==== Sys2Proof/Decode.lean ====
section
/-! DEFINITION. Decoding (R74) and encoding (R71), written from the same figures, and the byte order of an instruction
word in memory (R45, R70). -/

namespace Sys2Proof

/-! ## Byte order and sign extension -/

/-- The word whose byte at the lowest address is `b0` (R45). -/
def wordOfBytes (b0 b1 b2 b3 : Byte) : Word := b3 ++ b2 ++ b1 ++ b0

/-- Byte `k` of a word: the byte at address offset `k` (R45). -/
def byteOfWord (w : Word) (k : Nat) : Byte := field w (8 * k) 8

/-- The bytes of a word, lowest address first (R45). -/
def bytesOfWord (w : Word) : List Byte :=
  [byteOfWord w 0, byteOfWord w 1, byteOfWord w 2, byteOfWord w 3]

/-! ## Fields -/

/-- The condition of a code (R72); the last line is code 1111. -/
def condOfCode (k : BitVec 4) : Cond :=
  match k with
  | 0#4 => .eq | 1#4 => .ne | 2#4 => .cs | 3#4 => .cc | 4#4 => .mi | 5#4 => .pl | 6#4 => .vs | 7#4 => .vc
  | 8#4 => .hi | 9#4 => .ls | 10#4 => .ge | 11#4 => .lt | 12#4 => .gt | 13#4 => .le | 14#4 => .al | _ => .nv

/-- The code of a condition (R72). -/
def condCode : Cond → BitVec 4
  | .eq => 0#4 | .ne => 1#4 | .cs => 2#4 | .cc => 3#4 | .mi => 4#4 | .pl => 5#4 | .vs => 6#4 | .vc => 7#4
  | .hi => 8#4 | .ls => 9#4 | .ge => 10#4 | .lt => 11#4 | .gt => 12#4 | .le => 13#4 | .al => 14#4 | .nv => 15#4

/-- The shift type of a code (R77). -/
def shiftOfCode (k : BitVec 2) : ShiftType :=
  match k with
  | 0#2 => .lsl | 1#2 => .lsr | 2#2 => .asr | 3#2 => .ror

/-- The code of a shift type (R77). -/
def shiftCode : ShiftType → BitVec 2
  | .lsl => 0#2 | .lsr => 1#2 | .asr => 2#2 | .ror => 3#2

/-- Operand 2 of a data-processing word (R77, R78). Used only where bits 7 and 4 are not both 1 or bit 25 is 1. -/
def decodeOp2 (w : Word) : Op2 :=
  if bit w 25 then .imm (field w 8 4) (field w 0 8)
  else if bit w 4 then .shReg (field w 8 4) (shiftOfCode (field w 5 2)) (field w 0 4)
  else .shImm (field w 7 5) (shiftOfCode (field w 5 2)) (field w 0 4)

/-- A data-processing word (R75, R76); the last line is opcode 1111. -/
def decodeDataProcessing (w : Word) : Instr :=
  let c := condOfCode (field w 28 4)
  let sb := bit w 20
  let rn := field w 16 4
  let rd := field w 12 4
  let op2 := decodeOp2 w
  match field w 21 4 with
  | 0#4 => .and c sb rn rd op2
  | 1#4 => .eor c sb rn rd op2
  | 2#4 => .sub c sb rn rd op2
  | 3#4 => .rsb c sb rn rd op2
  | 4#4 => .add c sb rn rd op2
  | 5#4 => .adc c sb rn rd op2
  | 6#4 => .sbc c sb rn rd op2
  | 7#4 => .rsc c sb rn rd op2
  | 8#4 => .tst c sb rn rd op2
  | 9#4 => .teq c sb rn rd op2
  | 10#4 => .cmp c sb rn rd op2
  | 11#4 => .cmn c sb rn rd op2
  | 12#4 => .orr c sb rn rd op2
  | 13#4 => .mov c sb rn rd op2
  | 14#4 => .bic c sb rn rd op2
  | _ => .mvn c sb rn rd op2

/-- A word of class 000 with bits 7 and 4 both 1 (R74): multiply, its unallocated neighbours, SWP, UND-A. -/
def decodeMultiplySpace (cpu : Cpu) (w : Word) : Instr :=
  let c := condOfCode (field w 28 4)
  let hi := field w 8 16
  let mid := field w 5 2
  let lo := field w 0 4
  if bit w 24 then
    if cpu == .cpu020 && swpPattern hi mid then
      if bit w 22 then .swpb c (field w 16 4) (field w 12 4) lo
      else .swp c (field w 16 4) (field w 12 4) lo
    else .undA c hi mid lo
  else if mulPattern hi mid then
    if bit w 21 then .mla c (bit w 20) (field w 16 4) (field w 12 4) (field w 8 4) lo
    else .mul c (bit w 20) (field w 16 4) (field w 12 4) (field w 8 4) lo
  else .mulSpace c hi mid lo

/-- A single data transfer with offset `off` (R81): B is bit 22, L is bit 20. U is kept with either form of offset: U = 0 with a
register has an encoding and executes, though no assembler form writes it (R182). -/
def decodeSingleTransfer (w : Word) (off : Offset) : Instr :=
  let c := condOfCode (field w 28 4)
  let rn := field w 16 4
  let rd := field w 12 4
  if bit w 20 then
    if bit w 22 then .ldrb c (bit w 24) (bit w 23) (bit w 21) rn rd off
    else .ldr c (bit w 24) (bit w 23) (bit w 21) rn rd off
  else
    if bit w 22 then .strb c (bit w 24) (bit w 23) (bit w 21) rn rd off
    else .str c (bit w 24) (bit w 23) (bit w 21) rn rd off

/-- A word of class 111 (R74): SWI, CDO, MRC or MCR. -/
def decodeClass7 (w : Word) : Instr :=
  let c := condOfCode (field w 28 4)
  if bit w 24 then .swi c (field w 0 24)
  else if bit w 4 then
    if bit w 20 then
      .mrc c (field w 21 3) (field w 16 4) (field w 12 4) (field w 8 4) (field w 5 3) (field w 0 4)
    else .mcr c (field w 21 3) (field w 16 4) (field w 12 4) (field w 8 4) (field w 5 3) (field w 0 4)
  else .cdo c (field w 20 4) (field w 16 4) (field w 12 4) (field w 8 4) (field w 5 3) (field w 0 4)

/-- The total decode function of R74. Every word falls in exactly one leaf. The condition is kept in the instruction and
tested when it executes. DESIGN CHOICE (log 37): S of LDM and STM is bit 22 (R83), so the words E8BD800F and E9BD803F that R205
and R201 print for LDM with the hat are read without it; R97 prints E8FD800F. -/
def decode (cpu : Cpu) (w : Word) : Instr :=
  let c := condOfCode (field w 28 4)
  match field w 25 3 with
  | 0#3 => if bit w 7 && bit w 4 then decodeMultiplySpace cpu w else decodeDataProcessing w
  | 1#3 => decodeDataProcessing w
  | 2#3 => decodeSingleTransfer w (.imm (field w 0 12))
  | 3#3 =>
    if bit w 4 then .undB c (field w 5 20) (field w 0 4)
    else decodeSingleTransfer w (.reg (field w 7 5) (shiftOfCode (field w 5 2)) (field w 0 4))
  | 4#3 =>
    if bit w 20 then .ldm c (bit w 24) (bit w 23) (bit w 22) (bit w 21) (field w 16 4) (field w 0 16)
    else .stm c (bit w 24) (bit w 23) (bit w 22) (bit w 21) (field w 16 4) (field w 0 16)
  | 5#3 => if bit w 24 then .bl c (field w 0 24) else .b c (field w 0 24)
  | 6#3 =>
    if bit w 20 then
      .ldc c (bit w 24) (bit w 23) (bit w 22) (bit w 21) (field w 16 4) (field w 12 4) (field w 8 4) (field w 0 8)
    else
      .stc c (bit w 24) (bit w 23) (bit w 22) (bit w 21) (field w 16 4) (field w 12 4) (field w 8 4) (field w 0 8)
  | 7#3 => decodeClass7 w

/-- Why bytes are not an instruction: the only reason is that there are fewer than four of them (R70, R74). -/
inductive DecodeError where
  | tooFewBytes
  deriving DecidableEq, Repr

/-- Read one instruction from bytes, lowest address first, and answer the bytes that follow it (R70). -/
def decodeBytes (cpu : Cpu) : List Byte → Except DecodeError (Instr × List Byte)
  | b0 :: b1 :: b2 :: b3 :: rest => .ok (decode cpu (wordOfBytes b0 b1 b2 b3), rest)
  | _ => .error .tooFewBytes

/-- The instruction the decoder reads from a word of the opcode table: one 32-bit word, stored low byte first (R70).
The table's own machine is CPU-020, which has every row. -/
def decodeTableWord (nbits w : Nat) : Option Instr :=
  match decodeBytes .cpu020 (bytesOfWord (BitVec.ofNat 32 (w % 2 ^ nbits))) with
  | .ok (i, _) => some i
  | .error _ => none

/-! ## The encoder (R71) -/

/-- Bits 25 and 11:0 of a data-processing word (R77, R78). -/
def encodeOp2 : Op2 → BitVec 1 × BitVec 12
  | .imm rotate imm8 => (1#1, rotate ++ imm8)
  | .shImm amt ty rm => (0#1, amt ++ shiftCode ty ++ 0#1 ++ rm)
  | .shReg rs ty rm => (0#1, rs ++ 0#1 ++ shiftCode ty ++ 1#1 ++ rm)

/-- A data-processing word with opcode `op` (R71, R76). -/
def encodeDataProcessing (op : BitVec 4) (c : Cond) (sb : Bool) (rn rd : Reg) (op2 : Op2) : Word :=
  condCode c ++ 0#2 ++ (encodeOp2 op2).1 ++ op ++ bit1 sb ++ rn ++ rd ++ (encodeOp2 op2).2

/-- Bits 25 and 11:0 of a single data transfer (R81, R82). -/
def encodeOffset : Offset → BitVec 1 × BitVec 12
  | .imm off => (0#1, off)
  | .reg amt ty rm => (1#1, amt ++ shiftCode ty ++ 0#1 ++ rm)

/-- A single data transfer word (R71, R81). -/
def encodeSingleTransfer (byte load : Bool) (c : Cond) (p u w : Bool) (rn rd : Reg) (off : Offset) : Word :=
  condCode c ++ 1#2 ++ (encodeOffset off).1 ++ bit1 p ++ bit1 u ++ bit1 byte ++ bit1 w ++ bit1 load ++ rn ++ rd ++
    (encodeOffset off).2

/-- A block data transfer word (R71, R83). -/
def encodeBlockTransfer (load : Bool) (c : Cond) (p u sb w : Bool) (rn : Reg) (list : BitVec 16) : Word :=
  condCode c ++ 4#3 ++ bit1 p ++ bit1 u ++ bit1 sb ++ bit1 w ++ bit1 load ++ rn ++ list

/-- A coprocessor data transfer word (R71, R85). -/
def encodeCoprocTransfer (load : Bool) (c : Cond) (p u n w : Bool) (rn crd cp : Reg) (off : BitVec 8) : Word :=
  condCode c ++ 6#3 ++ bit1 p ++ bit1 u ++ bit1 n ++ bit1 w ++ bit1 load ++ rn ++ crd ++ cp ++ off

/-- A coprocessor register transfer word (R71, R87). -/
def encodeRegisterTransfer (load : Bool) (c : Cond) (opc : BitVec 3) (crn rd cp : Reg) (aux : BitVec 3) (crm : Reg) :
    Word :=
  condCode c ++ 14#4 ++ opc ++ bit1 load ++ crn ++ rd ++ cp ++ aux ++ 1#1 ++ crm

/-- The word of an instruction (R71). -/
def encode : Instr → Word
  | .and c sb rn rd op2 => encodeDataProcessing 0#4 c sb rn rd op2
  | .eor c sb rn rd op2 => encodeDataProcessing 1#4 c sb rn rd op2
  | .sub c sb rn rd op2 => encodeDataProcessing 2#4 c sb rn rd op2
  | .rsb c sb rn rd op2 => encodeDataProcessing 3#4 c sb rn rd op2
  | .add c sb rn rd op2 => encodeDataProcessing 4#4 c sb rn rd op2
  | .adc c sb rn rd op2 => encodeDataProcessing 5#4 c sb rn rd op2
  | .sbc c sb rn rd op2 => encodeDataProcessing 6#4 c sb rn rd op2
  | .rsc c sb rn rd op2 => encodeDataProcessing 7#4 c sb rn rd op2
  | .tst c sb rn rd op2 => encodeDataProcessing 8#4 c sb rn rd op2
  | .teq c sb rn rd op2 => encodeDataProcessing 9#4 c sb rn rd op2
  | .cmp c sb rn rd op2 => encodeDataProcessing 10#4 c sb rn rd op2
  | .cmn c sb rn rd op2 => encodeDataProcessing 11#4 c sb rn rd op2
  | .orr c sb rn rd op2 => encodeDataProcessing 12#4 c sb rn rd op2
  | .mov c sb rn rd op2 => encodeDataProcessing 13#4 c sb rn rd op2
  | .bic c sb rn rd op2 => encodeDataProcessing 14#4 c sb rn rd op2
  | .mvn c sb rn rd op2 => encodeDataProcessing 15#4 c sb rn rd op2
  | .mul c sb rd rn rs rm => condCode c ++ 0#7 ++ bit1 sb ++ rd ++ rn ++ rs ++ 9#4 ++ rm
  | .mla c sb rd rn rs rm => condCode c ++ 1#7 ++ bit1 sb ++ rd ++ rn ++ rs ++ 9#4 ++ rm
  | .mulSpace c hi mid lo => condCode c ++ 0#4 ++ hi ++ 1#1 ++ mid ++ 1#1 ++ lo
  | .swp c rn rd rm => condCode c ++ 16#8 ++ rn ++ rd ++ 9#8 ++ rm
  | .swpb c rn rd rm => condCode c ++ 20#8 ++ rn ++ rd ++ 9#8 ++ rm
  | .ldr c p u w rn rd off => encodeSingleTransfer false true c p u w rn rd off
  | .ldrb c p u w rn rd off => encodeSingleTransfer true true c p u w rn rd off
  | .str c p u w rn rd off => encodeSingleTransfer false false c p u w rn rd off
  | .strb c p u w rn rd off => encodeSingleTransfer true false c p u w rn rd off
  | .stm c p u sb w rn list => encodeBlockTransfer false c p u sb w rn list
  | .ldm c p u sb w rn list => encodeBlockTransfer true c p u sb w rn list
  | .b c off => condCode c ++ 10#4 ++ off
  | .bl c off => condCode c ++ 11#4 ++ off
  | .stc c p u n w rn crd cp off => encodeCoprocTransfer false c p u n w rn crd cp off
  | .ldc c p u n w rn crd cp off => encodeCoprocTransfer true c p u n w rn crd cp off
  | .cdo c opc crn crd cp aux crm => condCode c ++ 14#4 ++ opc ++ crn ++ crd ++ cp ++ aux ++ 0#1 ++ crm
  | .mcr c opc crn rd cp aux crm => encodeRegisterTransfer false c opc crn rd cp aux crm
  | .mrc c opc crn rd cp aux crm => encodeRegisterTransfer true c opc crn rd cp aux crm
  | .swi c comment => condCode c ++ 15#4 ++ comment
  | .undA c hi mid lo => condCode c ++ 1#4 ++ hi ++ 1#1 ++ mid ++ 1#1 ++ lo
  | .undB c hi lo => condCode c ++ 3#3 ++ hi ++ 1#1 ++ lo

end Sys2Proof
end

