-- ==== Sys2Proof/Machine/State.lean ====
section
/-! DEFINITION. The state of the machine: everything the spec gives the processor, coprocessor 15, the cache, memory, MEMC,
VIDC and IOC (R20-R42), as plain data, and the machine right after reset (R40-R42, R495). -/

namespace Sys2Proof.Machine

/-! ## Why a step stops -/

/-- Why the processor clocks are held for ever (R497). -/
inductive HoldReason where
  /-- An access to an I/O controller that does not exist (R340, U30). -/
  | noIoController
  /-- MEMC's test mode was selected (R310, U34). -/
  | memcTestMode
  deriving DecidableEq, Repr

/-- The faults of the machine. Every exception the spec describes is a next state, not a fault. -/
inductive Fault where
  /-- Raised by a step when the clocks are held and no input is left that could reset the machine (U30, U34: "stuck until
  reset"). Safe: the machine makes no further progress. -/
  | clocksHeld (r : HoldReason)
  deriving DecidableEq, Repr

/-- The refusals: the spec says "behaviour not specified" and no proof may pass through. -/
inductive Refusal where
  /-- An instruction of the table with no meaning yet. Raised by a dispatch arm only. Safe. -/
  | notModelled (mnemonic : String)
  /-- A word of the unallocated multiply space whose condition passed (R90, U10, D14). Raised by its meaning. Safe. -/
  | unallocatedMultiply
  /-- LDM or STM with no register in its list (R203, U15). Raised by their meanings. Safe. -/
  | emptyRegisterList
  /-- Coprocessor 15 register 6 to 15 (R279, U20). Raised by MCR and MRC. Safe. -/
  | cp15Register
  /-- Coprocessor 15 with a CPOpc, CP or CRm field that is not zero (R279, U21). Raised by MCR and MRC. Safe. -/
  | cp15Field
  /-- MCR to coprocessor 15 register 0 or MRC from register 1 (R279, U22). Raised by MCR and MRC. Safe. -/
  | cp15Direction
  /-- An access to RAM while MEMC's page size does not match the RAM fitted (R312, U35). Raised by memory accesses. Safe. -/
  | pageSizeMismatch
  /-- A translator write with A7 = 1 in a single-MEMC system (R315, U32). Raised by stores. Safe. -/
  | translatorA7
  /-- A VIDC control register write that selects test mode 0, 1 or 2 (R376, U41). Raised by stores. Safe. -/
  | vidcTestMode
  /-- A reset input shorter than CPU-020 allows (R491, U50). Raised by a step whose input says so. Safe. -/
  | resetTooShort
  deriving DecidableEq, Repr

/-! ## The processor -/

/-- The four processor modes, M1 M0 (R25). -/
inductive Mode where
  | user | firq | irq | svc
  deriving DecidableEq, Repr

/-- The PSR part of R15 (R25). -/
structure Psr where
  n : Bool
  z : Bool
  c : Bool
  v : Bool
  i : Bool
  f : Bool
  mode : Mode
  deriving DecidableEq, Repr

/-- The 26 registers of R20 other than R15. `usr` is R0-R14 as User mode sees them, `fiq` R8_fiq-R14_fiq, `irq` R13_irq and
R14_irq, `svc` R13_svc and R14_svc. -/
structure RegFile where
  usr : Vector Word 15
  fiq : Vector Word 7
  irq : Vector Word 2
  svc : Vector Word 2
  deriving DecidableEq, Repr

/-- One of the 26 physical registers other than R15 (R20, R22). -/
inductive PhysReg where
  | usr (k : Fin 15)
  /-- `fiq k` is R(8+k)_fiq. -/
  | fiq (k : Fin 7)
  /-- `irq k` is R(13+k)_irq. -/
  | irq (k : Fin 2)
  /-- `svc k` is R(13+k)_svc. -/
  | svc (k : Fin 2)
  deriving DecidableEq, Repr

/-- The eight exceptions (R450). -/
inductive Exc where
  | reset | undefined | swi | prefetchAbort | dataAbort | addressException | irq | firq
  deriving DecidableEq, Repr

/-- The size of a memory access (R44). -/
inductive Size where
  | byte | word
  deriving DecidableEq, Repr

/-- What a prefetch left in the pipeline (R36). -/
inductive Fetched where
  | word (w : Word)
  /-- The fetch was aborted: the invalid mark (R455). -/
  | aborted
  /-- The fetch made an access that the spec leaves unspecified; it matters only if the slot is executed. -/
  | unspecified (r : Refusal)
  deriving DecidableEq, Repr

/-- One prefetched instruction, and whether it was fetched in a non-User mode (CPSPV, R243). -/
structure Slot where
  content : Fetched
  priv : Bool
  deriving DecidableEq, Repr

/-- The register-bank hazard the next instruction is under (R500, R501). -/
inductive Hazard where
  | none
  /-- CPU-010, the last instruction was a compare or test that changed the mode from `old` (R500, U51). Draw number `draw`
  says which bank each register field gets. -/
  | modeChange (old : Mode) (draw : Nat)
  /-- The last instruction was an LDM that loaded the User bank from another mode (R501, U52), resolved by draw `draw`. -/
  | userBank (draw : Nat)
  deriving DecidableEq, Repr

/-- Coprocessor 15 of CPU-020 (R270). -/
structure Cp15 where
  r2 : BitVec 3
  r3 : Word
  r4 : Word
  r5 : Word
  deriving DecidableEq, Repr

/-- Which accesses a cache line serves (R282). -/
inductive Space where
  | shared | user | nonUser
  deriving DecidableEq, Repr

/-- A cache line: its key (R280) and its four words. -/
structure CacheLine where
  tag : BitVec 22
  space : Space
  w0 : Word
  w1 : Word
  w2 : Word
  w3 : Word
  deriving DecidableEq, Repr

/-! ## Memory -/

/-- Memory as a list of the bytes that differ from what an unlisted location reads as, locations strictly rising. -/
abbrev Memory := List Host.Cell

/-! ## MEMC (R301) -/

/-- One translator entry: logical page number and page protection level (R314). -/
structure PageEntry where
  lpn : BitVec 13
  ppl : BitVec 2
  deriving DecidableEq, Repr

/-- The boot latch (R308). -/
inductive Boot where
  | boot0 | boot1 | normal
  deriving DecidableEq, Repr

/-- MEMC's state (R301). `nextValid` is also the level of -SIRQ: low exactly when it is false (R331). -/
structure Memc where
  pageSize : BitVec 2
  lowRom : BitVec 2
  highRom : BitVec 2
  refresh : BitVec 2
  videoDma : Bool
  soundDma : Bool
  osMode : Bool
  testMode : Bool
  entries : Vector PageEntry 128
  vinit : BitVec 15
  vstart : BitVec 15
  vend : BitVec 15
  cinit : BitVec 15
  sstart : BitVec 15
  sendN : BitVec 15
  vptr : BitVec 15
  cptr : BitVec 15
  sptr : BitVec 15
  sendC : BitVec 15
  nextValid : Bool
  /-- The next burst on -VDRQ is a cursor burst: -HSYC was low when MEMC looked at it (R326). -/
  cursorNext : Bool
  boot : Boot
  deriving DecidableEq, Repr

/-! ## VIDC (R351, R386) -/

/-- VIDC's state. `horiz` is HCR HSWR HBSR HDSR HDER HBER (HCSR's place, unused) HIR at 0x80-0x9C; `vert` is VCR VSWR VBSR
VDSR VDER VBER VCSR VCER at 0xA0-0xBC. -/
structure Vidc where
  palette : Vector (BitVec 13) 16
  border : BitVec 13
  cursor : Vector (BitVec 13) 3
  /-- Stereo image registers by channel (R357). -/
  stereo : Vector (BitVec 3) 8
  horiz : Vector (BitVec 10) 8
  /-- HCSR: bits 23:11 of the word written (R364). -/
  hcsr : BitVec 13
  vert : Vector (BitVec 10) 8
  sfr : BitVec 9
  /-- Control register: the test bits 15:14 of the word written above bits 8:0 (R375). -/
  cr : BitVec 11
  /-- Which register numbers have been written since power-on: until VIDC is programmed its outputs are unspecified (R387). -/
  written : BitVec 64
  videoFifo : List Word
  cursorFifo : List Word
  soundFifo : List Word
  /-- Rasters since the start of vertical sync (R366). -/
  vcount : BitVec 10
  /-- The odd field of an interlaced display (R384). -/
  oddField : Bool
  /-- The dummy raster of the odd field is over (R384). -/
  dummy : Bool
  /-- The FLBK output (R388). -/
  flbk : Bool
  /-- The horizontal sync pulse is being output (-HSYC low, R384). -/
  hsync : Bool
  /-- Video DMA bursts asked for and not yet received: -VDRQ is low while it is not 0 (R386). -/
  videoWanted : BitVec 2
  /-- The number of video words read out of the FIFO in this frame, modulo 4 (R386). -/
  videoTaken : BitVec 2
  /-- A cursor DMA burst is asked for (R386). -/
  cursorWanted : Bool
  /-- -SDRQ is low: a sound DMA burst is asked for (R386). -/
  soundWanted : Bool
  /-- The byte of the oldest sound word that is read next (R385). -/
  soundByte : BitVec 2
  /-- The byte wide latch that drives the sound DAC (R385). -/
  soundLatch : Byte
  /-- The number of the next sound byte modulo 8 (R385). -/
  channel : BitVec 3
  deriving DecidableEq, Repr

/-! ## IOC (R402) -/

/-- One timer (R420). -/
structure Timer where
  counter : BitVec 16
  inLatch : BitVec 16
  outLatch : BitVec 16
  /-- The extra clock tick of a Go written in the instant of the underflow is still to come (R425). -/
  extra : Bool
  deriving DecidableEq, Repr

/-- IOC's state. -/
structure Ioc where
  /-- Control register bits 5:0, the output latch of C5-C0 (R404). -/
  ctrl : BitVec 6
  /-- The control register was written with bit 7 or 6 = 0 (R404, U43). -/
  wild : Bool
  /-- Latched bits 6:2 of IRQ Status A (R407): IF, IR, POR, TM0, TM1 from bit 0 up. -/
  latA : BitVec 5
  maskA : Byte
  maskB : Byte
  maskF : Byte
  timers : Vector Timer 4
  /-- The BAUD output (R423). -/
  baud : Bool
  rxData : Byte
  srx : Bool
  stx : Bool
  /-- The byte being transmitted and the timer 3 reload events still to come (R429, R424). -/
  tx : Option (Byte × Nat)
  /-- The byte arriving on KIN and the timer 3 reload events of its frame still to come (R430, R424). -/
  rx : Option (Byte × Nat)
  /-- The receive register was read too early: the next reception is any value (R431). -/
  rxSpoiled : Bool
  /-- The receiver has been enabled by the read that initialises it after power-on (R428). -/
  rxReady : Bool
  /-- The bytes transmitted so far, oldest first (KartSent, R432). -/
  sent : List Byte
  /-- Levels the outside drives on the pins, by `Pin.index` (R433). -/
  ext : BitVec 19
  prevIf : Bool
  prevIr : Bool
  /-- Latch bits cleared by the last access, for an event in the same instant (U44). -/
  lastClear : BitVec 5
  /-- Timers whose Go was written by the last access while their counter was 0 (R425). -/
  lastGo : BitVec 4
  /-- The events being applied happen in the same instant as the last access. -/
  coinciding : Bool
  deriving DecidableEq, Repr

/-! ## Coprocessors -/

/-- The answer of a coprocessor to an offer (R225). -/
inductive CpAnswer where
  | absent | busy | ready
  deriving DecidableEq, Repr

/-- What passed between the processor and a coprocessor (R225). -/
inductive CpEvent where
  /-- CPoffer: the word, and on CPU-020 the privilege of its fetch (R243). -/
  | offer (w : Word) (priv : Option Bool)
  | dataop (w : Word)
  /-- CPload: the k-th word; `none` after an abort, when the word is undefined (R232). -/
  | load (w : Word) (k : Nat) (data : Option Word)
  | store (w : Word) (k : Nat) (data : Word)
  | toCpu (w : Word) (data : Word)
  | fromCpu (w : Word) (data : Word)
  deriving DecidableEq, Repr

/-- An external coprocessor as plain data (log 21): the answers it will give, the words it will supply, how many words more
than one each LDC/STC will move, and the record of what it was told, oldest first. An exhausted script answers Absent. -/
structure Coproc where
  num : BitVec 4
  answers : List CpAnswer
  supply : List Word
  lengths : List Nat
  log : List CpEvent
  deriving DecidableEq, Repr

/-! ## Peripheral devices -/

/-- An access to a peripheral bank, with its cycle type and address (R434). -/
inductive IoEvent where
  | read (type : BitVec 2) (address : Addr) (data : Word)
  | write (type : BitVec 2) (address : Addr) (data : Word)
  deriving DecidableEq, Repr

/-- The platform's device model for one of the peripheral banks 1 to 7, as plain data (log 39): the values its reads will
return and the record of every access, oldest first. An exhausted script returns free values. -/
structure Device where
  bank : BitVec 3
  supply : List Word
  log : List IoEvent
  deriving DecidableEq, Repr

/-! ## Inputs -/

/-- The two kinds of system reset (R438, R493). -/
inductive ResetKind where
  | powerOn | warm
  deriving DecidableEq, Repr

/-- A reset input (R490, R491). -/
structure ResetInput where
  kind : ResetKind
  /-- The instruction at the PC had begun, and the reset abandons it after this many of its bus accesses (R491). -/
  abandons : Option Nat
  /-- Shorter than CPU-020 allows (U50). -/
  tooShort : Bool
  deriving DecidableEq, Repr

/-- What the outside and the other agents do between two instructions. -/
inductive EnvEvent where
  /-- `n` ticks of RCLK/4 pass for IOC's timers (R420). -/
  | ticks (n : Nat)
  /-- The outside drives a pin of IOC to a level (R433). -/
  | pin (p : Pin) (level : Bool)
  /-- The outside drives -IRQ and -FIRQ of a platform without IOC (R463, R464). -/
  | cpuPins (nirq nfirq : Bool)
  /-- The start bit of a frame carrying a byte arrives on KIN (KartDeliver, R430, R432). -/
  | kartFrame (b : Byte)
  /-- The events of this list that follow happen in the same instant as the access before it (U44, R425). -/
  | coincide
  /-- The next raster of VIDC starts, and with it the horizontal sync pulse (R366, R384, R388). -/
  | raster
  /-- The horizontal sync pulse ends (R384). -/
  | hsyncEnd
  /-- A sound sample period elapses (R374, R385). -/
  | soundSample
  /-- SINK resets the vertical counter (R384). -/
  | sink
  /-- FLBK of a VIDC that is not yet programmed takes a level (R387). -/
  | flbkLevel (b : Bool)
  /-- -HSYC of a VIDC that is not yet programmed takes a level, low where `b` (R387). -/
  | hsyncLevel (b : Bool)
  /-- A VIDC that is not yet programmed requests DMA (R387). -/
  | spuriousRequest (video cursor sound : Bool)
  /-- MEMC serves -VDRQ with a video burst (R322). -/
  | videoDma
  /-- MEMC serves -VDRQ with a cursor burst (R326). -/
  | cursorDma
  /-- MEMC serves -SDRQ (R329). -/
  | soundDma
  /-- MEMC refreshes, as it does every 4 microseconds (R313). -/
  | refreshTick
  /-- VIDC has displayed a word of video data (R386). -/
  | takeVideo
  /-- VIDC has displayed a word of cursor data (R380, R386). -/
  | takeCursor
  /-- The cache loses the line under a key (Drop, R280). -/
  | dropLine (tag : BitVec 22) (space : Space)
  deriving DecidableEq, Repr

/-- The inputs of one step: a reset or not, whether the synchronisers hide -IRQ or -FIRQ at this boundary (D33), and the
events before it. -/
structure Boundary where
  reset : Option ResetInput := .none
  hideIrq : Bool := false
  hideFirq : Bool := false
  events : List EnvEvent := []
  deriving DecidableEq, Repr

/-! ## The whole -/

/-- The state of the machine. INVENTORY.md lists each field with the rule that names it. -/
structure State where
  plat : Platform
  regs : RegFile
  psr : Psr
  pc : PcWord
  pipe : List Slot
  hazard : Hazard
  afterCdo : Bool
  held : Option HoldReason
  nirq : Bool
  nfirq : Bool
  cp15 : Cp15
  cache : List CacheLine
  mem : Memory
  memc : Memc
  vidc : Vidc
  ioc : Ioc
  coprocs : List Coproc
  /-- The devices of the peripheral banks (R434). -/
  devices : List Device
  free : Nat
  /-- What happens at the coming instruction boundaries, one entry each. -/
  inputs : List Boundary
  /-- What happens just before the coming bus accesses of the processor, one entry each (R59, R336). -/
  midEvents : List (List EnvEvent)
  /-- The bus accesses left to an instruction that a reset abandons (R491); none outside a reset input. -/
  cut : Option Nat
  deriving DecidableEq, Repr

/-- DESIGN CHOICE (log 2): registers that the spec gives no reset value are 0. -/
def RegFile.reset : RegFile where
  usr := Vector.replicate 15 0#32
  fiq := Vector.replicate 7 0#32
  irq := Vector.replicate 2 0#32
  svc := Vector.replicate 2 0#32

/-- MEMC after power-on reset: R342; what R342 leaves unspecified is 0 (log 4). -/
def Memc.reset : Memc where
  pageSize := 0
  lowRom := 0
  highRom := 0
  refresh := 0
  videoDma := false
  soundDma := false
  osMode := false
  testMode := false
  entries := Vector.replicate 128 ⟨0, 0⟩
  vinit := 0
  vstart := 0
  vend := 0
  cinit := 0
  sstart := 0
  sendN := 0
  vptr := 0
  cptr := 0
  sptr := 0
  sendC := 0
  nextValid := false
  cursorNext := false
  boot := .boot0

/-- DESIGN CHOICE (log 5): VIDC has no reset value at all (R387); everything is 0 or empty. -/
def Vidc.reset : Vidc where
  palette := Vector.replicate 16 0
  border := 0
  cursor := Vector.replicate 3 0
  stereo := Vector.replicate 8 0
  horiz := Vector.replicate 8 0
  hcsr := 0
  vert := Vector.replicate 8 0
  sfr := 0
  cr := 0
  written := 0
  videoFifo := []
  cursorFifo := []
  soundFifo := []
  vcount := 0
  oddField := false
  dummy := false
  flbk := false
  hsync := false
  videoWanted := 0
  videoTaken := 0
  cursorWanted := false
  soundWanted := false
  soundByte := 0
  soundLatch := 0
  channel := 0

/-- IOC after a power-on reset: control register all ones and the POR latch set (R438, R495); the rest is 0 (log 6), the
externally driven levels inactive (R433). -/
def Ioc.reset : Ioc where
  ctrl := 0x3F#6
  wild := false
  latA := 0b00100#5
  maskA := 0
  maskB := 0
  maskF := 0
  timers := Vector.replicate 4 ⟨0, 0, 0, false⟩
  baud := false
  rxData := 0
  srx := false
  stx := false
  tx := .none
  rx := .none
  rxSpoiled := false
  rxReady := false
  sent := []
  ext := 0b1111111000111111111#19
  prevIf := true
  prevIr := false
  lastClear := 0
  lastGo := 0
  coinciding := false

/-- The machine right after reset (R40-R42, R495): Supervisor mode, I = F = 1, PC = 0, CP15 register 2 = 0, cache empty,
MEMC and IOC reset, prefetch discarded; what the spec leaves unspecified is as logs 2 to 8 say. -/
def State.reset : State where
  plat := Config.platform
  regs := RegFile.reset
  psr := { n := false, z := false, c := false, v := false, i := true, f := true, mode := .svc }
  pc := 0
  pipe := []
  hazard := .none
  afterCdo := false
  held := .none
  nirq := true
  nfirq := true
  cp15 := { r2 := 0, r3 := 0, r4 := 0, r5 := 0 }
  cache := []
  mem := []
  memc := Memc.reset
  vidc := Vidc.reset
  ioc := Ioc.reset
  coprocs := []
  devices := []
  free := 0
  inputs := []
  midEvents := []
  cut := .none

end Sys2Proof.Machine
end

