-- ==== Sys2Proof/Machine/Ops.lean ====
section
/-! DEFINITION. The operations every meaning is built from: conditions, registers and their banks, R15, the PSR, taking an
exception and returning from one, the ends of an instruction, memory as data, free values. -/

namespace Sys2Proof.Machine

/-- The outcome of a step or a meaning. -/
abbrev Out := Host.Outcome State Fault Refusal

/-! ## Modes, conditions, the PSR -/

/-- M1 M0 (R25). -/
def modeBits : Mode → BitVec 2
  | .user => 0#2
  | .firq => 1#2
  | .irq => 2#2
  | .svc => 3#2

/-- The mode of M1 M0 (R25). -/
def modeOfBits (b : BitVec 2) : Mode :=
  match b with
  | 0#2 => .user
  | 1#2 => .firq
  | 2#2 => .irq
  | 3#2 => .svc

/-- ConditionPassed (R72). -/
def condPassed (c : Cond) (p : Psr) : Bool :=
  match c with
  | .eq => p.z
  | .ne => !p.z
  | .cs => p.c
  | .cc => !p.c
  | .mi => p.n
  | .pl => !p.n
  | .vs => p.v
  | .vc => !p.v
  | .hi => p.c && !p.z
  | .ls => !p.c || p.z
  | .ge => p.n == p.v
  | .lt => p.n != p.v
  | .gt => !p.z && (p.n == p.v)
  | .le => p.z || (p.n != p.v)
  | .al => true
  | .nv => false

/-- R15 as one word: PSR bits around a word address (R25). -/
def packR15 (p : Psr) (pc : PcWord) : Word :=
  bit1 p.n ++ bit1 p.z ++ bit1 p.c ++ bit1 p.v ++ bit1 p.i ++ bit1 p.f ++ pc ++ modeBits p.mode

/-- The PC bits of a word written to R15 (R28). -/
def pcBits (w : Word) : PcWord := field w 2 24

/-- WriteR15_PSR (R125): N Z C V always; I, F and M only when the mode before is not User. -/
def writePsr (v : Word) (p : Psr) : Psr :=
  let flags := { p with n := bit v 31, z := bit v 30, c := bit v 29, v := bit v 28 }
  if p.mode = .user then flags
  else { flags with i := bit v 27, f := bit v 26, mode := modeOfBits (field v 0 2) }

/-! ## Free values (log 8) -/

/-- A fresh free word, and the state that has drawn it. -/
def drawWord (s : State) : Word × State :=
  (Config.freeWord s.free 1000, { s with free := s.free + 1 })

/-! ## Registers -/

/-- The physical register that number `n` names in mode `m` (R22), for `n` from 0 to 14. -/
def phys (m : Mode) (n : Reg) : PhysReg :=
  if m = .firq ∧ 8 ≤ n.toNat then .fiq (Fin.ofNat 7 (n.toNat - 8))
  else if m = .irq ∧ 13 ≤ n.toNat then .irq (Fin.ofNat 2 (n.toNat - 13))
  else if m = .svc ∧ 13 ≤ n.toNat then .svc (Fin.ofNat 2 (n.toNat - 13))
  else .usr (Fin.ofNat 15 n.toNat)

/-- The contents of a physical register. -/
def getPhys (r : RegFile) : PhysReg → Word
  | .usr k => r.usr[k]
  | .fiq k => r.fiq[k]
  | .irq k => r.irq[k]
  | .svc k => r.svc[k]

/-- The register file with one physical register changed. -/
def setPhys (r : RegFile) (p : PhysReg) (v : Word) : RegFile :=
  match p with
  | .usr k => { r with usr := r.usr.set k v }
  | .fiq k => { r with fiq := r.fiq.set k v }
  | .irq k => { r with irq := r.irq.set k v }
  | .svc k => { r with svc := r.svc.set k v }

/-- The bank an instruction's register field reads at operand position `pos`. A hazard may give the other bank (R500 U51,
R501 U52): which one is a free bit for each position. -/
def readBank (pos : Nat) (s : State) : Mode :=
  match s.hazard with
  | .none => s.psr.mode
  | .modeChange old draw => if Config.freeBit draw pos then old else s.psr.mode
  | .userBank draw => if Config.freeBit draw pos then .user else s.psr.mode

/-- The bank an instruction's register field writes at operand position `pos` (R500 U51; R501 leaves writes alone). -/
def writeBank (pos : Nat) (s : State) : Mode :=
  match s.hazard with
  | .none => s.psr.mode
  | .modeChange old draw => if Config.freeBit draw pos then old else s.psr.mode
  | .userBank _ => s.psr.mode

/-- `R[n]` of R22 for `n` from 0 to 14, as operand `pos` of the instruction. -/
def readReg (pos : Nat) (n : Reg) (s : State) : Word :=
  getPhys s.regs (phys (readBank pos s) n)

/-- `R[n] <- v` for `n` from 0 to 14, as operand `pos` of the instruction. -/
def writeReg (pos : Nat) (n : Reg) (v : Word) (s : State) : State :=
  { s with regs := setPhys s.regs (phys (writeBank pos s) n) v }

/-- `Ruser[n]` (R22). -/
def readUser (n : Reg) (s : State) : Word := getPhys s.regs (phys .user n)

/-- `Ruser[n] <- v`. -/
def writeUser (n : Reg) (v : Word) (s : State) : State :=
  { s with regs := setPhys s.regs (phys .user n) v }

/-- The word address `k` bytes ahead of the instruction, wrapping (R27). -/
def pcAhead (k : Nat) (s : State) : PcWord := s.pc + BitVec.ofNat 24 (k / 4)

/-- `PCval(k)` of R27: PSR bits zero. -/
def pcVal (k : Nat) (s : State) : Word := 0#6 ++ pcAhead k s ++ 0#2

/-- `R15val(k)` of R27: with the PSR. -/
def r15Val (k : Nat) (s : State) : Word := packR15 s.psr (pcAhead k s)

/-- A register field that reads R15 as `PCval(k)`. -/
def regOrPc (k pos : Nat) (n : Reg) (s : State) : Word :=
  if n = 15#4 then pcVal k s else readReg pos n s

/-- A register field that reads R15 as `R15val(k)`. -/
def regOrR15 (k pos : Nat) (n : Reg) (s : State) : Word :=
  if n = 15#4 then r15Val k s else readReg pos n s

/-! ## The ends of an instruction -/

/-- What every completed instruction clears: the hazards it was under; and the next draw is a new one. -/
def retire (s : State) : State :=
  { s with hazard := .none, afterCdo := false, free := s.free + 1 }

/-- Go on to the next word (R28). -/
def advance (s : State) : State :=
  { s with pc := s.pc + 1, pipe := s.pipe.tail }

/-- Write the PC: the prefetched words are discarded (R28, R36). -/
def jump (target : PcWord) (s : State) : State :=
  { s with pc := target, pipe := [] }

/-- An instruction that ends by going on. -/
def finish (s : State) : Out := .next (retire (advance s))

/-- An instruction that ends by writing the PC. -/
def finishJump (target : PcWord) (s : State) : Out := .next (retire (jump target s))

/-- An instruction whose condition is tested first; when it fails only the PC advances (R73). -/
def conditional (c : Cond) (s : State) (run : State → Out) : Out :=
  if condPassed c s.psr then run s else finish s

/-! ## Exceptions (R450, R451) -/

/-- The mode an exception enters. -/
def Exc.mode : Exc → Mode
  | .irq => .irq
  | .firq => .firq
  | .reset | .undefined | .swi | .prefetchAbort | .dataAbort | .addressException => .svc

/-- The vector, as a word address. -/
def Exc.vector : Exc → PcWord
  | .reset => 0
  | .undefined => 1
  | .swi => 2
  | .prefetchAbort => 3
  | .dataAbort => 4
  | .addressException => 5
  | .irq => 6
  | .firq => 7

/-- Whether entry sets F; I is always set. -/
def Exc.setsF : Exc → Bool
  | .reset | .firq => true
  | .undefined | .swi | .prefetchAbort | .dataAbort | .addressException | .irq => false

/-- How many bytes the saved PC is ahead of the instruction concerned. -/
def Exc.ahead : Exc → Nat
  | .dataAbort | .addressException => 8
  | .reset | .undefined | .swi | .prefetchAbort | .irq | .firq => 4

/-- `Enter` of R451: R14 of the new mode receives the old PSR around `ret`; the mode, I and F change; the PC goes to the
vector; the pipeline is refilled. DEDUCED (logs 12, 13): the entry ends a bank hazard, so the first instruction of the handler is
under none, also after an aborted LDM. -/
def enterWith (e : Exc) (saved : Word) (s : State) : State :=
  { s with
    regs := setPhys s.regs (phys e.mode 14#4) saved
    psr := { s.psr with i := true, f := s.psr.f || e.setsF, mode := e.mode }
    pc := e.vector
    pipe := []
    hazard := .none
    afterCdo := false
    free := s.free + 1 }

/-- Taking exception `e` at the instruction at the PC (R451-R459): R14 receives `R15val(4)` or `R15val(8)`. -/
def enter (e : Exc) (s : State) : State := enterWith e (r15Val e.ahead s) s

/-- An instruction that ends by taking an exception. -/
def raise (e : Exc) (s : State) : Out := .next (enter e s)

/-- The return from an exception, and every write of the whole of R15 (R125, R466): PSR and PC from one word. -/
def returnTo (v : Word) (s : State) : Out :=
  .next (retire (jump (pcBits v) { s with psr := writePsr v s.psr }))

/-! ## Memory as data (log 7) -/

/-- What a location that is not listed reads as. -/
def unlistedByte : Byte := 0#8

/-- The byte at location `a`. -/
def Memory.read (m : Memory) (a : Nat) : Byte :=
  match m with
  | [] => unlistedByte
  | (k, b) :: t => if k = a then b else Memory.read t a

/-- The list `(a, v) :: m`, or `m` where `v` is what an unlisted location reads as. -/
def Memory.cons (a : Nat) (v : Byte) (m : Memory) : Memory :=
  if v = unlistedByte then m else (a, v) :: m

/-- Write the byte `v` at location `a`, keeping the canonical form. -/
def Memory.write (m : Memory) (a : Nat) (v : Byte) : Memory :=
  match m with
  | [] => Memory.cons a v []
  | (k, b) :: t =>
    if a < k then Memory.cons a v ((k, b) :: t)
    else if a = k then Memory.cons a v t
    else (k, b) :: Memory.write t a v

/-- Every location of the list is above `lo`, they rise strictly, they are below 2^26, and no byte is the unlisted one. -/
def Memory.wfFrom (lo : Nat) (m : Memory) : Bool :=
  match m with
  | [] => true
  | (k, b) :: t => decide (lo ≤ k) && decide (k < 2 ^ 26) && !(b == unlistedByte) && Memory.wfFrom (k + 1) t

/-- The canonical form of memory. -/
def Memory.wf (m : Memory) : Bool := Memory.wfFrom 0 m

/-- The little-endian word at location `a` (R45). -/
def Memory.readWord (m : Memory) (a : Nat) : Word :=
  wordOfBytes (m.read a) (m.read (a + 1)) (m.read (a + 2)) (m.read (a + 3))

/-- Store a word at location `a`, low byte first (R45). -/
def Memory.writeWord (m : Memory) (a : Nat) (w : Word) : Memory :=
  (((m.write a (byteOfWord w 0)).write (a + 1) (byteOfWord w 1)).write (a + 2) (byteOfWord w 2)).write (a + 3)
    (byteOfWord w 3)

/-! ## The answer of an access -/

/-- What an access answers: a value, an abort (R52), that the instruction goes no further (the clocks are held for ever, R497,
or a reset cuts it, R491), or a refusal. -/
inductive Bus (α : Type) where
  | done (v : α) (s : State)
  | abort (s : State)
  | held (s : State)
  | refused (r : Refusal)

/-- Hold the clocks (R497). -/
def hold (r : HoldReason) (s : State) : State := { s with held := some r }

/-- Go on after an access. -/
def Bus.bind {α β : Type} (b : Bus α) (f : α → State → Bus β) : Bus β :=
  match b with
  | .done v s => f v s
  | .abort s => .abort s
  | .held s => .held s
  | .refused r => .refused r

/-- End an instruction after an access: `ok` where it was done, `bad` where it aborted. -/
def Bus.out {α : Type} (b : Bus α) (ok : α → State → Out) (bad : State → Out) : Out :=
  match b with
  | .done v s => ok v s
  | .abort s => bad s
  | .held s => .next s
  | .refused r => .refused r

end Sys2Proof.Machine
end

