-- ==== Sys2Proof/Machine/Ioc.lean ====
section
/-! DEFINITION. IOC (53_ioc.md): pins, interrupt logic, timers, keyboard link, and its register reads and writes. -/

namespace Sys2Proof.Machine

/-! ## Pins -/

/-- The level the system puts on a pin (R433), before IOC's own control outputs. -/
def drivenLevel (p : Pin) (s : State) : Bool :=
  match s.plat.wiring.lookup p with
  | none => p.rest
  | some .outside => bit s.ioc.ext p.index
  | some .memcSirq => s.memc.nextValid
  | some .vidcFlbk => s.vidc.flbk
  | some (.level b) => b

/-- The level of a pin: a control pin that IOC drives low is low (R403). -/
def pinLevel (p : Pin) (s : State) : Bool :=
  match p with
  | .c n => bit s.ioc.ctrl n && drivenLevel p s
  | .il n => drivenLevel (.il n) s
  | .ifPin => drivenLevel .ifPin s
  | .ir => drivenLevel .ir s
  | .fh n => drivenLevel (.fh n) s
  | .fl => drivenLevel .fl s

/-! ## Interrupts -/

/-- IRQ Status A (R406, R411). PRESUMED (log 30): bit 7 reads 1 (R414). -/
def statusA (s : State) : Byte :=
  1#1 ++ s.ioc.latA ++ bit1 (!pinLevel (.il 7) s) ++ bit1 (!pinLevel (.il 6) s)

/-- IRQ Status B (R408, R411). -/
def statusB (s : State) : Byte :=
  bit1 s.ioc.srx ++ bit1 s.ioc.stx ++ bit1 (!pinLevel (.il 5) s) ++ bit1 (!pinLevel (.il 4) s) ++
    bit1 (!pinLevel (.il 3) s) ++ bit1 (!pinLevel (.il 2) s) ++ bit1 (!pinLevel (.il 1) s) ++ bit1 (!pinLevel (.il 0) s)

/-- FIRQ Status (R409, R411). PRESUMED (log 30): bit 7 reads 1 (R414). -/
def statusF (s : State) : Byte :=
  1#1 ++ bit1 (!pinLevel (.il 0) s) ++ bit1 (!pinLevel (.c 5) s) ++ bit1 (!pinLevel (.c 4) s) ++
    bit1 (!pinLevel (.c 3) s) ++ bit1 (!pinLevel .fl s) ++ bit1 (pinLevel (.fh 1) s) ++ bit1 (pinLevel (.fh 0) s)

/-- The request registers (R411). -/
def requestA (s : State) : Byte := statusA s &&& s.ioc.maskA
/-- The request registers (R411). -/
def requestB (s : State) : Byte := statusB s &&& s.ioc.maskB
/-- The request registers (R411). -/
def requestF (s : State) : Byte := statusF s &&& s.ioc.maskF

/-- -IRQ is low: by IOC's requests (R413), or at the processor's own pin on a platform without IOC. -/
def irqLow (s : State) : Bool :=
  if s.plat.hasIoc then (requestA s ||| requestB s) != 0#8 else !s.nirq

/-- -FIRQ is low (R413). -/
def firqLow (s : State) : Bool :=
  if s.plat.hasIoc then requestF s != 0#8 else !s.nfirq

/-- Set a latch bit. -/
def Ioc.latch (k : Fin 5) (i : Ioc) : Ioc := { i with latA := i.latA ||| (1#5 <<< k.val) }

/-- An event on latch bit `k` (R407): the bit is set, but freely set or not where the last access cleared it in the same instant
(U44). -/
def latchEvent (k : Fin 5) (s : State) : State :=
  if s.ioc.coinciding && bit s.ioc.lastClear k then
    let (w, s) := drawWord s
    if bit w 0 then { s with ioc := s.ioc.latch k } else s
  else { s with ioc := s.ioc.latch k }

/-- The edge detectors look at -IF and IR (R407). After a control write with bit 7 or 6 = 0 what they see is free (U43). -/
def sampleEdges (s₀ : State) : State :=
  let nif := pinLevel .ifPin s₀
  let ir := pinLevel .ir s₀
  let s := { s₀ with ioc := { s₀.ioc with prevIf := nif, prevIr := ir } }
  if s.ioc.wild then
    let (w, s) := drawWord s
    { s with ioc := { s.ioc with latA := field s.ioc.latA 2 3 ++ field w 0 2 } }
  else
    let s := if s₀.ioc.prevIf && !nif then latchEvent 0 s else s
    if !s₀.ioc.prevIr && ir then latchEvent 1 s else s

/-- The edge detectors start from the levels the pins have. -/
def primeEdges (s : State) : State :=
  { s with ioc := { s.ioc with prevIf := pinLevel .ifPin s, prevIr := pinLevel .ir s } }

/-! ## Timers and the keyboard link -/

/-- Reloads of timer 3 in a bit: it is 16 (latch + 1) microseconds and a tick half of one (R424). DEDUCED (log 31): each reload
toggles the clock that is 16 times the bit rate, as it toggles BAUD in R423. -/
def bitReloads : Nat := 32

/-- Reloads of timer 3 in a frame of 11 bits (R429). -/
def frameReloads : Nat := 11 * bitReloads

/-- Reloads of timer 3 left halfway through the last data bit (R431). -/
def lastBitHalf : Nat := 2 * bitReloads + bitReloads / 2

/-- Reloads of timer 3 left at the end of the last data bit (R431). -/
def lastBitEnd : Nat := 2 * bitReloads

/-- Timer 3 clocks the transmitter (R424, R429): at the end of the frame STx is set and the other end has the byte. -/
def Ioc.clockTx (i : Ioc) : Ioc :=
  match i.tx with
  | none => i
  | some (b, k) =>
    if k ≤ 1 then { i with tx := none, stx := true, sent := i.sent ++ [b] } else { i with tx := some (b, k - 1) }

/-- What the receiver takes from a frame is open: the last byte was not read (U47), or was read too early (R431), or the receiver
has not been initialised (R428). -/
def Ioc.rxDoubtful (i : Ioc) : Bool := i.srx || i.rxSpoiled || !i.rxReady

/-- A byte has been received (R430). A receiver that is not initialised sets SRx or not, freely (R428). -/
def received (b : Byte) (s : State) : State :=
  let (w, t) := if s.ioc.rxDoubtful then drawWord s else (b.setWidth 32, s)
  { t with ioc := { t.ioc with
      rxData := field w 0 8, srx := s.ioc.srx || s.ioc.rxReady || bit w 8, rxSpoiled := false } }

/-- Timer 3 clocks the receiver (R424, R430): SRx is set halfway through the last data bit (R431). -/
def clockRx (s : State) : State :=
  match s.ioc.rx with
  | none => s
  | some (b, k) =>
    let s := { s with ioc := { s.ioc with rx := if k ≤ 1 then none else some (b, k - 1) } }
    if k - 1 = lastBitHalf then received b s else s

/-- A reload event of timer `n` (R422, R423, R424): 0 and 1 latch an interrupt, 2 toggles BAUD, 3 clocks the keyboard link. -/
def reloadEvent (n : Fin 4) (s : State) : State :=
  if n = 0 then latchEvent 3 s
  else if n = 1 then latchEvent 4 s
  else if n = 2 then { s with ioc := { s.ioc with baud := !s.ioc.baud } }
  else clockRx { s with ioc := s.ioc.clockTx }

/-- Change timer `n`. -/
def setTimer (n : Fin 4) (t : Timer) (s : State) : State :=
  { s with ioc := { s.ioc with timers := s.ioc.timers.set n t } }

/-- The underflow of timer `n`: its reload event, which with latch 0 freely happens or not (U46). -/
def underflow (n : Fin 4) (s : State) : State :=
  if s.ioc.timers[n].inLatch = 0#16 then
    let (w, s) := drawWord s
    if bit w 0 then reloadEvent n s else s
  else reloadEvent n s

/-- One tick of one timer (R425). A tick in the instant of a Go that
was written at the underflow is that underflow: the Go has reloaded the counter, and the next tick is the extra one. -/
def tickTimer (n : Fin 4) (s : State) : State :=
  let t := s.ioc.timers[n]
  if s.ioc.coinciding && bit s.ioc.lastGo n then
    underflow n (setTimer n { t with extra := true } s)
  else if t.extra then setTimer n { t with extra := false } s
  else if t.counter = 0#16 then underflow n (setTimer n { t with counter := t.inLatch } s)
  else setTimer n { t with counter := t.counter - 1 } s

/-- One tick of RCLK/4 (R420, R425). -/
def tick (s : State) : State := tickTimer 3 (tickTimer 2 (tickTimer 1 (tickTimer 0 s)))

/-- The events that follow are later than the last access. -/
def separate (s : State) : State :=
  { s with ioc := { s.ioc with lastClear := 0, lastGo := 0, coinciding := false } }

/-- `n` ticks; only the first can fall in the instant of the last access. -/
def ticks : Nat → State → State
  | 0, s => s
  | n + 1, s => ticks n (separate (tick s))

/-- KartDeliver (R430, R432): a frame starts on KIN, which carries one at a time; what a receiver that is not initialised takes
for a frame in progress (R428) stops none. -/
def kartFrame (b : Byte) (s : State) : State :=
  if s.ioc.rxReady && s.ioc.rx.isSome then s else { s with ioc := { s.ioc with rx := some (b, frameReloads) } }

/-! ## Register access -/

/-- A bit of an address by number; a number above 25 reads 0. -/
def addrBit (a : Addr) (k : Nat) : BitVec 1 := bit1 (bit a k)

/-- IOC is selected (R401). -/
def iocSelected (m : IocMap) (a : Addr) : Bool := bit a m.cs

/-- The bank B2:B0 (R401, R434). -/
def iocBank (m : IocMap) (a : Addr) : BitVec 3 := addrBit a m.b2 ++ addrBit a m.b1 ++ addrBit a m.b0

/-- The cycle type T1:T0 (R434, R435): it sets the length of the cycle and reaches the device. -/
def iocCycleType (m : IocMap) (a : Addr) : BitVec 2 := addrBit a m.t1 ++ addrBit a m.t0

/-- The internal register A6:A2 (R401); the Table 1 offset is four times it. -/
def iocRegister (m : IocMap) (a : Addr) : BitVec 5 :=
  addrBit a m.a6 ++ addrBit a m.a5 ++ addrBit a m.a4 ++ addrBit a m.a3 ++ addrBit a m.a2

/-- The control register as read (R403): IR, -IF, C5-C0; free bits 7 and 6 after a write that cleared them (U43). -/
def readIocControl (s : State) : Byte × State :=
  let pins : BitVec 6 := bit1 (pinLevel (.c 5) s) ++ bit1 (pinLevel (.c 4) s) ++ bit1 (pinLevel (.c 3) s) ++
    bit1 (pinLevel (.c 2) s) ++ bit1 (pinLevel (.c 1) s) ++ bit1 (pinLevel (.c 0) s)
  if s.ioc.wild then
    let (w, s) := drawWord s
    (field w 0 2 ++ pins, s)
  else (bit1 (pinLevel .ir s) ++ bit1 (pinLevel .ifPin s) ++ pins, s)

/-- The frame on KIN is in the second half of its last data bit (R431). -/
def Ioc.lastBitRunning (i : Ioc) : Bool :=
  match i.rx with
  | none => false
  | some (_, k) => decide (lastBitEnd < k) && decide (k ≤ lastBitHalf)

/-- The receiver after a read of its register: SRx is clear (R430). A read before the last data bit has ended spoils the next
reception (R431). The read that initialises the receiver ends what was in progress and enables it for the next reception
(R428). -/
def Ioc.afterRead (i : Ioc) : Ioc :=
  if i.rxReady then { i with srx := false, rxSpoiled := i.rxSpoiled || i.lastBitRunning }
  else { i with srx := false, rxSpoiled := false, rx := none, rxReady := true }

/-- A read of the serial Rx register (R430): the value is free where SRx was clear. -/
def readSerial (s : State) : Byte × State :=
  let ioc := s.ioc.afterRead
  let (w, t) := drawWord s
  if s.ioc.srx then (s.ioc.rxData, { s with ioc := ioc }) else (field w 0 8, { t with ioc := ioc })

/-- A free byte: a register with nothing defined (R415, U42). -/
def readNothing (s : State) : Byte × State :=
  let (w, s) := drawWord s
  (field w 0 8, s)

/-- A read of a timer register (R421). -/
def readTimer (n : Fin 4) (reg : BitVec 2) (s : State) : Byte × State :=
  let t := s.ioc.timers[n]
  if reg = 0#2 then (field t.outLatch 0 8, s)
  else if reg = 1#2 then (field t.outLatch 8 8, s)
  else readNothing s

/-- A read of internal register `r` (R402). -/
def readIocRegister (r : BitVec 5) (s : State) : Byte × State :=
  if bit r 4 then readTimer (field r 2 2).toFin (field r 0 2) s
  else
    match field r 0 4 with
    | 0#4 => readIocControl s
    | 1#4 => readSerial s
    | 4#4 => (statusA s, s)
    | 5#4 => (requestA s, s)
    | 6#4 => (s.ioc.maskA, s)
    | 8#4 => (statusB s, s)
    | 9#4 => (requestB s, s)
    | 10#4 => (s.ioc.maskB, s)
    | 12#4 => (statusF s, s)
    | 13#4 => (requestF s, s)
    | 14#4 => (s.ioc.maskF, s)
    | _ => readNothing s

/-- A Go command (R421): the counter is reloaded, with no tick left over from an earlier Go; one written while the counter is 0
may meet the underflow (R425). -/
def goTimer (n : Fin 4) (s : State) : State :=
  let t := s.ioc.timers[n]
  let meets : BitVec 4 := if t.counter = 0#16 then 1#4 <<< n.val else 0#4
  setTimer n { t with counter := t.inLatch, extra := false } { s with ioc := { s.ioc with lastGo := s.ioc.lastGo ||| meets } }

/-- A write of a timer register (R421). -/
def writeTimer (n : Fin 4) (reg : BitVec 2) (v : Byte) (s : State) : State :=
  let t := s.ioc.timers[n]
  match reg with
  | 0#2 => setTimer n { t with inLatch := field t.inLatch 8 8 ++ v } s
  | 1#2 => setTimer n { t with inLatch := v ++ field t.inLatch 0 8 } s
  | 2#2 => goTimer n s
  | 3#2 => setTimer n { t with outLatch := t.counter } s

/-- A write of internal register `r` (R402); a register with nothing defined ignores it (R415). -/
def writeIocRegister (r : BitVec 5) (v : Byte) (s : State) : State :=
  let i := s.ioc
  if bit r 4 then writeTimer (field r 2 2).toFin (field r 0 2) v s
  else
    match field r 0 4 with
    | 0#4 => { s with ioc := { i with ctrl := field v 0 6, wild := i.wild || field v 6 2 != 3#2 } }
    | 1#4 => { s with ioc := { i with stx := false, tx := some (v, frameReloads) } }
    | 5#4 => { s with ioc := { i with latA := i.latA &&& ~~~(field v 2 5), lastClear := i.lastClear ||| field v 2 5 } }
    | 6#4 => { s with ioc := { i with maskA := v } }
    | 10#4 => { s with ioc := { i with maskB := v } }
    | 14#4 => { s with ioc := { i with maskF := v } }
    | _ => s

/-! ## Peripheral devices (R434) -/

/-- Change the device of a bank. -/
def updateDevice (bank : BitVec 3) (f : Device → Device) (s : State) : State :=
  { s with devices := s.devices.map fun d => if d.bank = bank then f d else d }

/-- A read of a peripheral bank: what its device supplies next; free where no device is fitted or its script is exhausted. The
device records the access. -/
def deviceRead (bank : BitVec 3) (type : BitVec 2) (a : Addr) (s₀ : State) : Word × State :=
  let (w, s) :=
    match s₀.devices.find? fun d => d.bank = bank with
    | some { supply := v :: _, .. } => (v, s₀)
    | _ => drawWord s₀
  (w, updateDevice bank (fun d => { d with supply := d.supply.tail, log := d.log ++ [.read type a w] }) s)

/-- A write of a peripheral bank reaches its device; with none fitted it is ignored. -/
def deviceWrite (bank : BitVec 3) (type : BitVec 2) (a : Addr) (w : Word) (s : State) : State :=
  updateDevice bank (fun d => { d with log := d.log ++ [.write type a w] }) s

/-- An I/O read cycle (R340): IOC's register on byte lane 0 with the other lanes free (D30), a device of a peripheral bank
(R434), clocks held where no controller answers (U30). -/
def ioRead (a : Addr) (s : State) : Bus Word :=
  let m := s.plat.iocMap
  if !(s.plat.hasIoc && iocSelected m a) then .held (hold .noIoController s)
  else if iocBank m a = 0#3 then
    let (b, s) := readIocRegister (iocRegister m a) s
    let (w, s) := drawWord s
    .done (field w 8 24 ++ b) s
  else
    let (w, s) := deviceRead (iocBank m a) (iocCycleType m a) a s
    .done w s

/-- An I/O write cycle (R340): bits 7:0 of the bus to IOC's register (D30), the word on the bus to a peripheral bank (R434). -/
def ioWrite (a : Addr) (d : Word) (s : State) : Bus Unit :=
  let m := s.plat.iocMap
  if !(s.plat.hasIoc && iocSelected m a) then .held (hold .noIoController s)
  else if iocBank m a = 0#3 then .done () (writeIocRegister (iocRegister m a) (field d 0 8) s)
  else .done () (deviceWrite (iocBank m a) (iocCycleType m a) a d s)

/-- IOC at reset (R438): the control register; the POR latch at power-on. -/
def resetIoc (kind : ResetKind) (s : State) : State :=
  let i := { (separate s).ioc with ctrl := 0x3F#6, wild := false }
  { s with ioc := if kind = .powerOn then i.latch 2 else i }

end Sys2Proof.Machine
end

