-- ==== Sys2Proof/Machine/Flags.lean ====
section
/-! DEFINITION. What the ALU answers: result and flags of the logical and the arithmetic class (R117, R118), and the flags
of multiplies (R164). -/

namespace Sys2Proof.Machine

/-- A result with the four flags it would set. -/
structure AluOut where
  result : Word
  n : Bool
  z : Bool
  c : Bool
  v : Bool
  deriving DecidableEq, Repr

/-- The logical class (R117): N and Z from the result, C the shifter carry, V unchanged. -/
def logicalOut (result : Word) (shifterCarry v : Bool) : AluOut where
  result := result
  n := bit result 31
  z := result == 0#32
  c := shifterCarry
  v := v

/-- AddWithCarry (R118). -/
def addWithCarry (a b : Word) (carry : Bool) : AluOut :=
  let usum := a.toNat + b.toNat + carry.toNat
  let result : Word := BitVec.ofNat 32 usum
  { result := result
    n := bit result 31
    z := result == 0#32
    c := decide (2 ^ 32 ≤ usum)
    v := (bit a 31 == bit b 31) && (bit result 31 != bit a 31) }

/-- Set N, Z, C and V. -/
def Psr.setFlags (p : Psr) (n z c v : Bool) : Psr := { p with n := n, z := z, c := c, v := v }

end Sys2Proof.Machine
end

