-- ==== Sys2Proof/Machine/Operands.lean ====
section
/-! DEFINITION. The barrel shifter (R112-R116), operand 2 of data processing (R111, R123), the addresses of the transfer
instructions (R171, R191, R229), and the register positions that hazards are resolved at. -/

namespace Sys2Proof.Machine

/-- An operand with the shifter's carry out. -/
structure Shifted where
  value : Word
  carry : Bool
  deriving DecidableEq, Repr

/-- ShiftImm (R112): the amount is in the instruction; amount 0 means LSL 0, LSR 32, ASR 32, RRX. -/
def shiftImm (ty : ShiftType) (amt : BitVec 5) (v : Word) (carry : Bool) : Shifted :=
  let k := amt.toNat
  match ty with
  | .lsl => if k = 0 then ⟨v, carry⟩ else ⟨v <<< k, bit v (32 - k)⟩
  | .lsr => if k = 0 then ⟨0#32, bit v 31⟩ else ⟨v >>> k, bit v (k - 1)⟩
  | .asr => if k = 0 then ⟨v.sshiftRight 31, bit v 31⟩ else ⟨v.sshiftRight k, bit v (k - 1)⟩
  | .ror => if k = 0 then ⟨bit1 carry ++ field v 1 31, bit v 0⟩ else ⟨v.rotateRight k, bit v (k - 1)⟩

/-- ShiftReg (R113, R114): the amount is the bottom byte of Rs. -/
def shiftReg (ty : ShiftType) (amount : Byte) (v : Word) (carry : Bool) : Shifted :=
  let n := amount.toNat
  if n = 0 then ⟨v, carry⟩
  else if n < 32 then shiftImm ty (BitVec.ofNat 5 n) v carry
  else
    match ty with
    | .lsl => if n = 32 then ⟨0#32, bit v 0⟩ else ⟨0#32, false⟩
    | .lsr => if n = 32 then ⟨0#32, bit v 31⟩ else ⟨0#32, false⟩
    | .asr => ⟨v.sshiftRight 31, bit v 31⟩
    | .ror =>
      let m := (n - 1) % 32 + 1
      if m = 32 then ⟨v, bit v 31⟩ else shiftImm .ror (BitVec.ofNat 5 m) v carry

/-- ImmOperand (R116, D15). -/
def immOperand (rotate : BitVec 4) (imm8 : BitVec 8) (carry : Bool) : Shifted :=
  let v : Word := imm8.setWidth 32
  if rotate = 0#4 then ⟨v, carry⟩
  else
    let r := v.rotateRight (2 * rotate.toNat)
    ⟨r, bit r 31⟩

/-! Operand positions: 0 Rn, 1 Rm, 2 Rs, 3 Rd; 32+k the k-th register of a list. -/

/-- How far ahead R15 reads as Rn or Rm (R123): 12 where a register gives the shift amount. -/
def aheadOf : Op2 → Nat
  | .imm _ _ => 8
  | .shImm _ _ _ => 8
  | .shReg _ _ _ => 12

/-- Operand 2 of data processing (R111). -/
def evalOp2 (op2 : Op2) (s : State) : Shifted :=
  match op2 with
  | .imm rotate imm8 => immOperand rotate imm8 s.psr.c
  | .shImm amt ty rm => shiftImm ty amt (regOrR15 8 1 rm s) s.psr.c
  | .shReg rs ty rm => shiftReg ty (field (regOrPc 8 2 rs s) 0 8) (regOrR15 12 1 rm s) s.psr.c

/-- The offset of a single data transfer (R82, R171). -/
def evalOffset (off : Offset) (s : State) : Word :=
  match off with
  | .imm o => o.setWidth 32
  | .reg amt ty rm => (shiftImm ty amt (regOrR15 8 1 rm s) s.psr.c).value

/-- `base + offset` or `base - offset` (R171, R229), for a register offset too (R182). -/
def indexed (u : Bool) (base offset : Word) : Word := if u then base + offset else base - offset

/-- The address of a transfer: the modified base when pre-indexed, the base when post-indexed (R171). -/
def transferAddress (p : Bool) (base modified : Word) : Word := if p then modified else base

/-- The translate attribute of a transfer with a T bit (R50, R173). -/
def translateBit (p w : Bool) (s : State) : Bool := (s.psr.mode == .user) || (!p && w)

/-- The translate attribute of every other access (R50). -/
def modeTranslate (s : State) : Bool := s.psr.mode == .user

/-- An address with any of bits 31:26 set (R54, R457). -/
def illegalAddress (a : Word) : Bool := field a 26 6 != 0#6

/-- The 26 bits of an address that reach the bus (R54). -/
def busAddress (a : Word) : Addr := field a 0 26

/-- An address with its two lowest bits cleared (R46). -/
def alignWord (a : Addr) : Addr := field a 2 24 ++ 0#2

/-- The aligned word that LDM, STM, LDC, STC and the word swap access (R192, R214, R229). -/
def busWord (a : Word) : Addr := alignWord (busAddress a)

/-- The word a load puts in its register: the aligned word rotated so that the addressed byte is lowest (R174). -/
def loadRotate (a : Word) (w : Word) : Word := w.rotateRight (8 * (field a 0 2).toNat)

/-- The byte a load selects from the aligned word, zero extended (R47, R176). -/
def loadByte (a : Word) (w : Word) : Word := (byteOfWord w (field a 0 2).toNat).setWidth 32

/-- A byte repeated on the four lanes of the bus (R47, R186). -/
def repeatByte (v : Word) : Word := wordOfBytes (byteOfWord v 0) (byteOfWord v 0) (byteOfWord v 0) (byteOfWord v 0)

/-- The listed registers from `k` up, in ascending order (R191). -/
def listFrom (list : BitVec 16) : Nat → List Reg
  | 0 => []
  | n + 1 => listFrom list n ++ (if bit list n then [BitVec.ofNat 4 n] else [])

/-- The registers of a block transfer, lowest first (R191). -/
def listedRegs (list : BitVec 16) : List Reg := listFrom list 16

/-- `4 * n` for `n` listed registers. -/
def blockBytes (list : BitVec 16) : Word := BitVec.ofNat 32 (4 * (listedRegs list).length)

/-- The address of the first (lowest) word of a block transfer (R191). -/
def blockStart (p u : Bool) (list : BitVec 16) (base : Word) : Word :=
  if u then base + (if p then 4#32 else 0#32)
  else base - blockBytes list + (if p then 0#32 else 4#32)

/-- The value written back by a block transfer (R191, R193). -/
def blockFinal (u : Bool) (list : BitVec 16) (base : Word) : Word :=
  if u then base + blockBytes list else base - blockBytes list

end Sys2Proof.Machine
end

