-- ==== Sys2Proof/Machine/Vidc.lean ====
section
/-! DEFINITION. VIDC (52_vidc.md): the register write, what each field means, the vertical timing that drives FLBK, the three
FIFOs and their requests, the sound output. -/

namespace Sys2Proof.Machine

/-- Every VIDC register becomes free (R352, U40). FIFOs and counters are not registers. DESIGN CHOICE (log 29): where this leaves CR
bits 15:14 not zero the machine runs on as in normal operation; only a CR write that sets them is refused (U41). Where it leaves SFR
bit 8 = 0 no counter, sync pulse or request is cleared, they only stand still; the next SFR write clears them (R374). -/
def Vidc.scrambleRegisters (n : Nat) (v : Vidc) : Vidc :=
  { v with
    palette := Vector.ofFn fun i => field (Config.freeWord n (3000 + i.val)) 0 13
    border := field (Config.freeWord n 3016) 0 13
    cursor := Vector.ofFn fun i => field (Config.freeWord n (3017 + i.val)) 0 13
    stereo := Vector.ofFn fun i => field (Config.freeWord n (3020 + i.val)) 0 3
    horiz := Vector.ofFn fun i => field (Config.freeWord n (3028 + i.val)) 0 10
    hcsr := field (Config.freeWord n 3036) 0 13
    vert := Vector.ofFn fun i => field (Config.freeWord n (3037 + i.val)) 0 10
    sfr := field (Config.freeWord n 3045) 0 9
    cr := field (Config.freeWord n 3046) 0 11 }

/-- The stereo image channel at a register address 0x60-0x7C: register 7 first, then 0 to 6 (R357). -/
def stereoChannel (k : BitVec 3) : BitVec 3 := k - 1#3

/-- The number of the register a word is for: bits 31:26 (R350). -/
def vidcNumber (d : Word) : BitVec 6 := field d 26 6

/-- All internal timing signals cleared, as while SFR bit 8 is 0 (R374, R387). DESIGN CHOICE (log 29): these are the counters,
the sync pulse and the requests; FLBK stays. -/
def Vidc.clearTiming (v : Vidc) : Vidc :=
  { v with
    vcount := 0, oddField := false, dummy := false, hsync := false
    videoWanted := 0, videoTaken := 0, cursorWanted := false
    soundWanted := false, soundByte := 0, channel := 0 }

/-- A write of the SFR (R374): bit 8 = 0, before or after, clears the timing. -/
def Vidc.writeSfr (value : BitVec 9) (v : Vidc) : Vidc :=
  let t := { v with sfr := value }
  if bit v.sfr 8 && bit value 8 then t else t.clearTiming

/-- What a word does to a register that is not reserved (R351). -/
def Vidc.put (d : Word) (v : Vidc) : Vidc :=
  let low : BitVec 3 := field d 26 3
  match field d 29 3 with
  | 0#3 | 1#3 => { v with palette := v.palette.set (field d 26 4).toFin (field d 0 13) }
  | 2#3 =>
    match low with
    | 1#3 => { v with cursor := v.cursor.set 0 (field d 0 13) }
    | 2#3 => { v with cursor := v.cursor.set 1 (field d 0 13) }
    | 3#3 => { v with cursor := v.cursor.set 2 (field d 0 13) }
    | _ => { v with border := field d 0 13 }
  | 3#3 => { v with stereo := v.stereo.set (stereoChannel low).toFin (field d 0 3) }
  | 4#3 =>
    if low = 6#3 then { v with hcsr := field d 11 13 }
    else { v with horiz := v.horiz.set low.toFin (field d 14 10) }
  | 5#3 => { v with vert := v.vert.set low.toFin (field d 14 10) }
  | 6#3 => v.writeSfr (field d 0 9)
  | 7#3 => { v with cr := field d 14 2 ++ field d 0 9 }

/-- The 18 reserved register addresses (R351, R352). -/
def vidcReserved (d : Word) : Bool :=
  let low : BitVec 3 := field d 26 3
  match field d 29 3 with
  | 2#3 => decide (4 ≤ low.toNat)
  | 6#3 | 7#3 => low != 0#3
  | 0#3 | 1#3 | 3#3 | 4#3 | 5#3 => false

/-- A word written to the control register that selects test mode 0, 1 or 2 (R376). -/
def vidcTestMode (d : Word) : Bool := vidcNumber d == 56#6 && field d 14 2 != 0#2

/-- VidcWrite (R350, R351). A reserved address leaves every register free (U40); test modes 0 to 2 are refused (U41). DESIGN
CHOICE (log 29): a word that selects one of the two modes R379 does not support is accepted like the others. -/
def writeVidc (d : Word) (s : State) : Bus Unit :=
  if vidcTestMode d then .refused .vidcTestMode
  else if vidcReserved d then
    .done () { s with vidc := s.vidc.scrambleRegisters s.free, free := s.free + 1 }
  else
    let v := s.vidc.put d
    .done () { s with vidc := { v with written := v.written ||| (1#64 <<< (vidcNumber d).toNat) } }

/-! ## Named registers and fields -/

/-- HCR (R358). -/
def Vidc.hcr (v : Vidc) : BitVec 10 := v.horiz[0]
/-- HSWR (R359). -/
def Vidc.hswr (v : Vidc) : BitVec 10 := v.horiz[1]
/-- HBSR (R360). -/
def Vidc.hbsr (v : Vidc) : BitVec 10 := v.horiz[2]
/-- HDSR (R361). -/
def Vidc.hdsr (v : Vidc) : BitVec 10 := v.horiz[3]
/-- HDER (R362). -/
def Vidc.hder (v : Vidc) : BitVec 10 := v.horiz[4]
/-- HBER (R363). -/
def Vidc.hber (v : Vidc) : BitVec 10 := v.horiz[5]
/-- HIR (R365). -/
def Vidc.hir (v : Vidc) : BitVec 10 := v.horiz[7]
/-- VCR (R366). -/
def Vidc.vcr (v : Vidc) : BitVec 10 := v.vert[0]
/-- VSWR (R367). -/
def Vidc.vswr (v : Vidc) : BitVec 10 := v.vert[1]
/-- VBSR (R368). -/
def Vidc.vbsr (v : Vidc) : BitVec 10 := v.vert[2]
/-- VDSR (R369). -/
def Vidc.vdsr (v : Vidc) : BitVec 10 := v.vert[3]
/-- VDER (R370). -/
def Vidc.vder (v : Vidc) : BitVec 10 := v.vert[4]
/-- VBER (R371). -/
def Vidc.vber (v : Vidc) : BitVec 10 := v.vert[5]
/-- VCSR (R372). -/
def Vidc.vcsr (v : Vidc) : BitVec 10 := v.vert[6]
/-- VCER (R373). -/
def Vidc.vcer (v : Vidc) : BitVec 10 := v.vert[7]

/-- The pixel rate in MHz, CR bits 1:0 (R375). -/
def Vidc.pixelRate (v : Vidc) : Nat :=
  match field v.cr 0 2 with
  | 0#2 => 8
  | 1#2 => 12
  | 2#2 => 16
  | 3#2 => 24

/-- The bits of each pixel, CR bits 3:2 (R375). -/
def Vidc.bitsPerPixel (v : Vidc) : Nat := 2 ^ (field v.cr 2 2).toNat

/-- The DMA request point, CR bits 5:4: at the end of words k and k+4 (R375). -/
def Vidc.requestPoint (v : Vidc) : BitVec 2 := field v.cr 4 2

/-- Interlace sync, CR bit 6 (R375). -/
def Vidc.interlace (v : Vidc) : Bool := bit v.cr 6

/-- Composite sync, CR bit 7 (R375). -/
def Vidc.compositeSync (v : Vidc) : Bool := bit v.cr 7

/-- Test mode 3, CR bit 8 (R376): it does not touch normal operation. -/
def Vidc.testMode3 (v : Vidc) : Bool := bit v.cr 8

/-- The rate at which the display takes data, in kbytes per second (R379). -/
def Vidc.dataRate (v : Vidc) : Nat := v.pixelRate * 1000 * v.bitsPerPixel / 8

/-- One of the fourteen supported modes (R379). -/
def Vidc.modeSupported (v : Vidc) : Bool :=
  !(v.pixelRate == 24 && v.bitsPerPixel == 8) && !(v.pixelRate == 8 && v.bitsPerPixel == 1)

/-- The sound sample period in microseconds (R374). -/
def Vidc.samplePeriod (v : Vidc) : Nat := (field v.sfr 0 8).toNat + 1

/-- The timing runs: SFR bit 8 (R374). -/
def Vidc.timed (v : Vidc) : Bool := bit v.sfr 8

/-- The registers that must be written before VIDC's outputs mean anything (R387): the palette, the display registers, the SFR
and the CR. DESIGN CHOICE (log 29): the "eleven" display registers are taken as HCR to HBER and VCR to VBER. -/
def vidcNeeded : List (Fin 64) :=
  [0, 1, 2, 3, 4, 5, 6, 7, 8, 9, 10, 11, 12, 13, 14, 15, 32, 33, 34, 35, 36, 37, 40, 41, 42, 43, 44, 45, 48, 56]

/-- VIDC is programmed (R387). -/
def Vidc.programmed (v : Vidc) : Bool := v.timed && vidcNeeded.all fun k => bit v.written k

/-- FLBK, -HSYC and the request lines are unspecified (R387): VIDC is not programmed, and no SFR write holds the timing cleared with
bit 8 = 0 (R374). -/
def Vidc.unspecified (v : Vidc) : Bool := !v.programmed && (v.timed || !bit v.written 48)

/-! ## Places on a raster, in pixels from the start of -HSYC -/

/-- The period of a raster (R358). -/
def Vidc.rasterPixels (v : Vidc) : Nat := 2 * v.hcr.toNat + 2

/-- The width of the horizontal sync pulse (R359). -/
def Vidc.hsyncPixels (v : Vidc) : Nat := 2 * v.hswr.toNat + 2

/-- The start of the border (R360). -/
def Vidc.borderStart (v : Vidc) : Nat := 2 * v.hbsr.toNat + 1

/-- The first pixel after the border (R363). -/
def Vidc.borderEnd (v : Vidc) : Nat := 2 * v.hber.toNat + 1

/-- What the display start and end add to twice the register (R361, R362). -/
def Vidc.displayOffset (v : Vidc) : Nat :=
  match field v.cr 2 2 with
  | 0#2 => 19
  | 1#2 => 11
  | 2#2 => 7
  | 3#2 => 5

/-- The first displayed pixel (R361). -/
def Vidc.displayStart (v : Vidc) : Nat := 2 * v.hdsr.toNat + v.displayOffset

/-- The first pixel after the display (R362). -/
def Vidc.displayEnd (v : Vidc) : Nat := 2 * v.hder.toNat + v.displayOffset

/-- The first pixel of the cursor (R364). -/
def Vidc.cursorStart (v : Vidc) : Nat := (field v.hcsr 2 11).toNat + 6

/-- The quarter of a pixel at which the cursor starts in the high resolution mode (R364, R383). -/
def Vidc.cursorSubPosition (v : Vidc) : BitVec 2 := field v.hcsr 0 2

/-- Where -HI falls: half way along the raster of an interlaced display (R365, R384). -/
def Vidc.halfPixels (v : Vidc) : Nat := 2 * v.hir.toNat

/-! ## Rows: which rasters show what -/

/-- The dummy raster of the odd field (R384). DESIGN CHOICE (log 29): it is the raster in which the delayed vertical sync pulse
ends, it comes before the raster VSWR + 1 with the same count, and like the pulse it shows nothing and uses no data. -/
def Vidc.dummyRow (v : Vidc) : Bool :=
  v.interlace && v.oddField && !v.dummy && decide (v.vcount.toNat = v.vswr.toNat + 1)

/-- A raster after the one that register `first` names and up to the one that `last` names (R368-R373), the dummy raster not among
them. -/
def Vidc.rowIn (first last : BitVec 10) (v : Vidc) : Bool :=
  !v.dummyRow && decide (first.toNat < v.vcount.toNat) && decide (v.vcount.toNat ≤ last.toNat)

/-- A displayed raster (R369, R370). -/
def Vidc.displayRow (v : Vidc) : Bool := v.rowIn v.vdsr v.vder

/-- A raster with a border (R368, R371). -/
def Vidc.borderRow (v : Vidc) : Bool := v.rowIn v.vbsr v.vber

/-- A raster with a cursor (R372, R373); none where VCER is less than VCSR (R381). -/
def Vidc.cursorRow (v : Vidc) : Bool := v.rowIn v.vcsr v.vcer

/-- A raster of the vertical sync pulse (R367), in the odd field with the dummy raster in which it ends (R384). DEDUCED (log 29): a
raster counts whole, since the place within it is no state. -/
def Vidc.syncRow (v : Vidc) : Bool := v.dummyRow || decide (v.vcount.toNat ≤ v.vswr.toNat)

/-! ## What is on the outputs at pixel `x` of the current raster -/

/-- The level of -HSYC (R359, R384). -/
def Vidc.hsycPin (v : Vidc) (x : Nat) : Bool := !decide (x < v.hsyncPixels)

/-- The level of vertical sync (R384): low for VSWR + 1 rasters, in the odd field of an interlaced display from half a raster
later. -/
def Vidc.vsycLevel (v : Vidc) (x : Nat) : Bool :=
  let rasters := v.vcount.toNat + (if v.dummy then 1 else 0)
  let place := rasters * v.rasterPixels + x
  let delay := if v.interlace && v.oddField then v.halfPixels else 0
  !(decide (delay ≤ place) && decide (place < (v.vswr.toNat + 1) * v.rasterPixels + delay))

/-- The level of -V/CS: vertical sync, or the XNOR of both (R384). -/
def Vidc.vcsPin (v : Vidc) (x : Nat) : Bool :=
  if v.compositeSync then v.hsycPin x == v.vsycLevel x else v.vsycLevel x

/-- -HI falls at this pixel (R384). -/
def Vidc.hiFalls (v : Vidc) (x : Nat) : Bool := decide (x = v.halfPixels)

/-- What a pixel of the screen shows. -/
inductive Region where
  | blank | border | display
  deriving DecidableEq, Repr

/-- The pixel is within the border's limits (R360, R363). -/
def Vidc.insideBorder (v : Vidc) (x : Nat) : Bool :=
  v.borderRow && decide (v.borderStart ≤ x) && decide (x < v.borderEnd)

/-- The region of a pixel (R360-R363, R368-R371, R382). DESIGN CHOICE (log 29): display data outside the limits of the border are
shown, as only the cursor is said not to be (R381). -/
def Vidc.regionAt (v : Vidc) (x : Nat) : Region :=
  if v.displayRow && decide (v.displayStart ≤ x) && decide (x < v.displayEnd) then .display
  else if v.insideBorder x then .border
  else .blank

/-- The pixel of the 32 of the cursor that falls here, never outside the border's limits (R364, R380, R381). -/
def Vidc.cursorPixel (v : Vidc) (x : Nat) : Option Nat :=
  if v.cursorRow && v.insideBorder x && decide (v.cursorStart ≤ x) && decide (x < v.cursorStart + 32) then
    some (x - v.cursorStart)
  else none

/-! ## Colours -/

/-- A physical colour: supremacy bit and three 4-bit amplitudes (R353). -/
structure Colour where
  supremacy : Bool
  blue : BitVec 4
  green : BitVec 4
  red : BitVec 4
  deriving DecidableEq, Repr

/-- The physical colour of a palette entry (R353, R378). -/
def colourOf (e : BitVec 13) : Colour := ⟨bit e 12, field e 8 4, field e 4 4, field e 0 4⟩

/-- The physical colour of a pixel in 8-bits-per-pixel mode (R354). -/
def colourOf8 (v : Vidc) (pixel : Byte) : Colour :=
  let e := v.palette[(field pixel 0 4).toFin]
  { supremacy := bit e 12
    blue := field pixel 7 1 ++ field e 8 3
    green := field pixel 5 2 ++ field e 4 2
    red := field pixel 4 1 ++ field e 0 3 }

/-- The physical colour of a pixel of logical colour `pixel` (R354, R378). -/
def pixelColour (v : Vidc) (pixel : Byte) : Colour :=
  if v.bitsPerPixel = 8 then colourOf8 v pixel
  else colourOf v.palette[(BitVec.ofNat 4 (pixel.toNat % 2 ^ v.bitsPerPixel)).toFin]

/-- Pixel `k` of a word of video data, least significant end first (R377). -/
def pixelOf (v : Vidc) (w : Word) (k : Nat) : Byte :=
  BitVec.ofNat 8 (w.toNat / 2 ^ (k * v.bitsPerPixel) % 2 ^ v.bitsPerPixel)

/-- The colour of cursor pixel `k` of a word of cursor data: none where transparent (R380, R356). -/
def cursorColour (v : Vidc) (w : Word) (k : Nat) : Option Colour :=
  match w.toNat / 4 ^ k % 4 with
  | 1 => some (colourOf v.cursor[0])
  | 2 => some (colourOf v.cursor[1])
  | 3 => some (colourOf v.cursor[2])
  | _ => none

/-- The colour shown at pixel `x`, where the display has the pixel `pixel` and the cursor of this raster is the words `w0`, `w1`:
the cursor above the display and the border; none in the blanked part (R354, R355, R380). -/
def Vidc.shown (v : Vidc) (x : Nat) (pixel : Byte) (w0 w1 : Word) : Option Colour :=
  match (v.cursorPixel x).bind fun k => cursorColour v (if k < 16 then w0 else w1) (k % 16) with
  | some c => some c
  | none =>
    match v.regionAt x with
    | .display => some (pixelColour v pixel)
    | .border => some (colourOf v.border)
    | .blank => none

/-- The level of -SUP: low while a colour with its supremacy bit set is shown (R384). -/
def supPin (c : Option Colour) : Bool :=
  match c with
  | some c => !c.supremacy
  | none => true

/-- The pins -VED3 to -VED0: the inverse of the red data (R383). -/
def vedPins (c : Colour) : BitVec 4 := ~~~c.red

/-- The pins SD3-SD0 in test mode 3: the inverse of what the green DAC is fed with NSEL low, the blue DAC with NSEL high
(R376). -/
def Vidc.sdPins (v : Vidc) (nsel : Bool) (c : Colour) : Option (BitVec 4) :=
  if v.testMode3 then some (~~~(if nsel then c.blue else c.green)) else none

/-- The cycles that -L/R makes in one sample period in test mode 3 (R376). -/
def Vidc.lrCycles (v : Vidc) : Option Nat := if v.testMode3 then some 8 else none

/-! ## Vertical timing -/

/-- FLBK takes a level (R388): its falling edge loads Vptr from Vinit (R324); while it is high Cptr follows Cinit (R327). DESIGN
CHOICE (log 28): Vptr is loaded at the edge itself, where R324 lets MEMC wait for a fitting cycle of the processor, so a Vinit
written just after the edge comes too late; Cptr is loaded at both edges. -/
def setFlbk (level : Bool) (s : State) : State :=
  let m := s.memc
  { s with
    vidc := { s.vidc with flbk := level }
    memc := { m with
      vptr := if s.vidc.flbk && !level then m.vinit else m.vptr
      cptr := if s.vidc.flbk || level then m.cinit else m.cptr } }

/-- The count and field of the raster that starts (R366, R384): the odd field holds one dummy raster, which leaves the
count. DESIGN
CHOICE (log 29): a VCR below the count is not noticed; the count runs on to 1023 and wraps to 0 in the same field. -/
def Vidc.nextRaster (v : Vidc) : Vidc :=
  if v.dummyRow then { v with dummy := true }
  else if v.vcount = v.vcr then
    { v with vcount := 0, dummy := false, oddField := v.interlace && !v.oddField }
  else { v with vcount := v.vcount + 1 }

/-- In every raster of the vertical sync pulse the video FIFO is cleared and -VDRQ is high, so no request stands (R386). -/
def Vidc.clearInSync (v : Vidc) : Vidc :=
  if v.syncRow then { v with videoFifo := [], videoWanted := 0, cursorWanted := false } else v

/-- -VDRQ is low: VIDC asks for video or cursor data, never during the vertical sync pulse (R386). A VIDC that is not yet programmed
may ask at any time (R387). -/
def Vidc.vdrqLow (v : Vidc) : Bool :=
  !(v.programmed && v.syncRow) && (v.videoWanted != 0#2 || v.cursorWanted)

/-- Cursor data are asked for as -HSYC falls on the first and then every other cursor raster (R386). -/
def Vidc.askCursor (v : Vidc) : Vidc :=
  if v.cursorRow && (v.vcount.toNat - v.vcsr.toNat - 1) % 2 == 0 then { v with cursorWanted := true } else v

/-- A raster starts, with its sync pulse. FLBK rises at raster VDER + 1, or at the first raster where the display lasts to the end of
the frame before it, and falls at raster VDSR + 1 (R388); both at once leave it free. While the timing is cleared nothing happens (R374). -/
def startRaster (s : State) : State :=
  if s.vidc.timed then
    let displayed := s.vidc.displayRow
    let v := { s.vidc.nextRaster with hsync := true }.askCursor.clearInSync
    let s := { s with vidc := v }
    let rises := !v.dummyRow && (v.vcount.toNat == v.vder.toNat + 1 || (displayed && v.vcount == 0#10))
    let falls := !v.dummyRow && v.vcount.toNat == v.vdsr.toNat + 1
    if rises && falls then
      let (w, s) := drawWord s
      setFlbk (bit w 0) s
    else if rises then setFlbk true s
    else if falls then setFlbk false s
    else s
  else s

/-- The sync pulse ends; on the first displayed raster the whole video FIFO is asked for (R386), so none where VDER is less than
VDSR (R382), and none in the vertical sync pulse. A pulse ends once. -/
def Vidc.endSync (v : Vidc) : Vidc :=
  let first := v.timed && v.displayRow && decide (v.vcount.toNat = v.vdsr.toNat + 1)
  if v.hsync && first && !v.syncRow then { v with hsync := false, videoWanted := 2, videoTaken := 0 }
  else { v with hsync := false }

/-- SINK (R384): the vertical counter goes to the first raster, of the odd field when interlaced. DESIGN CHOICE (log 29): FLBK
stays as it was until a raster moves it, and while SFR bit 8 keeps the timing cleared (R374) SINK does nothing, so the field stays
even. -/
def sinkPulse (s : State) : State :=
  if s.vidc.timed then
    { s with vidc :=
        { s.vidc with vcount := 0, dummy := false, oddField := s.vidc.interlace }.clearInSync }
  else s

/-! ## Data leaving the FIFOs -/

/-- The display has used a word of video data: at the request point four more are asked for, twice where the last request still
stands (R386). DESIGN CHOICE (log 29): with the FIFO empty nothing happens and no word counts. -/
def Vidc.takeVideo (v : Vidc) : Vidc :=
  match v.videoFifo with
  | [] => v
  | _ :: rest =>
    if v.timed && v.displayRow then
      { v with
        videoFifo := rest
        videoTaken := v.videoTaken + 1
        videoWanted := if v.videoTaken = v.requestPoint ∧ v.videoWanted ≠ 2#2 then v.videoWanted + 1 else v.videoWanted }
    else v

/-- The display has used a word of cursor data (R380). DESIGN CHOICE (log 29): with the FIFO empty nothing happens. -/
def Vidc.takeCursor (v : Vidc) : Vidc :=
  if v.timed && v.cursorRow then { v with cursorFifo := v.cursorFifo.tail } else v

/-- A sample period elapses (R385, R386): the next byte goes to the latch; the last one of the FIFO asks for 16 more. DESIGN
CHOICE (log 29): an empty FIFO leaves the latch free, asks again and counts no byte. -/
def soundSample (s : State) : State :=
  let v := s.vidc
  if v.timed then
    match v.soundFifo with
    | [] =>
      let (w, s) := drawWord s
      { s with vidc := { v with soundLatch := field w 0 8, soundWanted := true } }
    | w :: rest =>
      let last := v.soundByte == 3#2
      { s with vidc := { v with
          soundLatch := byteOfWord w v.soundByte.toNat
          soundByte := v.soundByte + 1
          channel := v.channel + 1
          soundFifo := if last then rest else w :: rest
          soundWanted := v.soundWanted || (last && rest.isEmpty) } }
  else s

/-- VIDC takes its request lines low while they are unspecified (R387). -/
def Vidc.spurious (video cursor sound : Bool) (v : Vidc) : Vidc :=
  if !v.unspecified then v
  else
    { v with
      videoWanted := if video && v.videoWanted != 2#2 then v.videoWanted + 1 else v.videoWanted
      cursorWanted := v.cursorWanted || cursor
      soundWanted := v.soundWanted || sound }

/-! ## Sound -/

/-- The stereo position that steers the sample byte number `k` of the buffer (R385). -/
def stereoOf (v : Vidc) (k : Nat) : BitVec 3 := v.stereo[k % 8]'(Nat.mod_lt k (by decide))

/-- A sample byte (R385): chord, point on the chord, sign. -/
def sampleFields (b : Byte) : BitVec 3 × BitVec 4 × Bool := (field b 5 3, field b 1 4, bit b 0)

/-- The DAC's output for a sample byte, in steps of the first chord: eight chords of 16 steps, each step twice the one of the
chord before (R385). -/
def dacLevel (b : Byte) : Nat :=
  let (chord, point, _) := sampleFields b
  16 * (2 ^ chord.toNat - 1) + point.toNat * 2 ^ chord.toNat

/-- A stereo position: the share that one side has (R357). -/
inductive StereoPosition where
  /-- Value 0, which the table calls undefined. -/
  | undefined
  | left (percent : Nat)
  | centre
  | right (percent : Nat)
  deriving DecidableEq, Repr

/-- The position that a Stereo Image Register stands for (R357). -/
def stereoPosition (r : BitVec 3) : StereoPosition :=
  match r with
  | 0#3 => .undefined
  | 1#3 => .left 100
  | 2#3 => .left 83
  | 3#3 => .left 67
  | 4#3 => .centre
  | 5#3 => .right 67
  | 6#3 => .right 83
  | 7#3 => .right 100

/-- What the sound pins give in quarter `q` of a sample: nothing in the first; then the level, whether it goes to the '-' pair,
and the stereo position of the byte in the latch (R385). DESIGN CHOICE (log 29): the sign bit is 1 for the '-' pair. -/
def soundOutput (v : Vidc) (q : Nat) : Option (Nat × Bool × StereoPosition) :=
  if q = 0 then none
  else some (dacLevel v.soundLatch, (sampleFields v.soundLatch).2.2, stereoPosition (stereoOf v (v.channel - 1).toNat))

end Sys2Proof.Machine
end

