-- ==== Sys2Proof/Machine/Memc.lean ====
section
/-! DEFINITION. MEMC (51_memc.md): decode of an access, translation and protection, the control register, the translator
and DMA register writes, and the three DMA generators. -/

namespace Sys2Proof.Machine

/-- MEMC's three protection modes (R305). -/
inductive MemcMode where
  | supervisor | os | user
  deriving DecidableEq, Repr

/-- MemcMode (R305) with SPMD = -TRAN (R306). -/
def memcMode (trans : Bool) (m : Memc) : MemcMode :=
  if !trans then .supervisor else if m.osMode then .os else .user

/-- Table 3 (R307): whether a page of level `ppl` may be read or written. -/
def permits (mode : MemcMode) (ppl : BitVec 2) (write : Bool) : Bool :=
  match mode with
  | .supervisor => true
  | .os => !write || !(bit ppl 1)
  | .user => if bit ppl 1 then false else !write || !(bit ppl 0)

/-- The page size P (R310). -/
def Memc.pageBytes (m : Memc) : Nat := 4096 * 2 ^ m.pageSize.toNat

/-- The logical page number of an address below 0x2000000 (R314). -/
def Memc.pageOf (m : Memc) (a : Addr) : BitVec 13 := BitVec.ofNat 13 (a.toNat % 2 ^ 25 / m.pageBytes)

/-- The entries that claim a logical page (R314). -/
def Memc.matching (m : Memc) (lpn : BitVec 13) : List (Fin 128) :=
  (List.finRange 128).filter fun i => m.entries[i].lpn == lpn

/-- The location of physical RAM byte `pa` (R312). -/
def ramLocation (p : Platform) (pa : Nat) : Nat := 0x2000000 + pa % p.ram.bytes

/-- Whether a location is RAM. -/
def isRam (p : Platform) (loc : Nat) : Bool := decide (0x2000000 ≤ loc) && decide (loc < 0x2000000 + p.ram.bytes)

/-- Whether a location is main memory: RAM, or all of the flat memory of a platform without MEMC (R55). -/
def isMain (p : Platform) (loc : Nat) : Bool := if p.hasMemc then isRam p loc else decide (loc < 2 ^ 26)

/-- The location a read of the Low ROM area reaches (R304, D4). -/
def lowRomLocation (p : Platform) (a : Addr) : Nat := 0x3400000 + (a.toNat - 0x3400000) % p.romLowLen

/-- The location a read of the High ROM area reaches (R304, D4). -/
def highRomLocation (p : Platform) (a : Addr) : Nat := 0x3800000 + (a.toNat - 0x3800000) % p.romHighLen

/-- The location a read in the boot states reaches (R308, D28). -/
def bootLocation (p : Platform) (a : Addr) : Nat := 0x3800000 + a.toNat % 0x800000 % p.romHighLen

/-- Where an access goes once MEMC has allowed it (R303). -/
inductive Target where
  /-- The aligned word at a location of memory. -/
  | memory (loc : Nat)
  /-- A RAM write in a boot state (U33). -/
  | bootRam
  /-- An I/O cycle (R340). -/
  | io
  /-- A VIDC register write (R339). -/
  | vidc
  /-- A DMA or control register write (R309, R320). -/
  | register
  /-- A translator write (R315). -/
  | translator

/-- The boot latch after an access to `a` (R308). -/
def bootNext (a : Addr) (b : Boot) : Boot :=
  match b with
  | .boot0 => if field a 24 2 = 0#2 then .boot1 else .boot0
  | .boot1 => if bit a 25 then .normal else .boot1
  | .normal => .normal

/-- Update the boot latch; every processor access does it (R308). -/
def bootStep (a : Addr) (s : State) : State :=
  { s with memc := { s.memc with boot := bootNext a s.memc.boot } }

/-- Physical RAM byte `pa`, refused while the page size does not match the RAM fitted (R312, U35). -/
def ramTarget (pa : Nat) (s : State) : Bus Target :=
  if s.memc.pageSize = s.plat.ram.pageCode then .done (.memory (ramLocation s.plat pa)) s
  else .refused .pageSizeMismatch

/-- Translation and protection of logically mapped RAM (R314). Two entries that match give a free page, or an abort (U36). -/
def logicalTarget (write : Bool) (a : Addr) (trans : Bool) (s : State) : Bus Target :=
  let offset := a.toNat % s.memc.pageBytes
  match s.memc.matching (s.memc.pageOf a) with
  | [] => .abort s
  | [i] =>
    if permits (memcMode trans s.memc) s.memc.entries[i].ppl write then
      ramTarget (i.val * s.memc.pageBytes + offset) s
    else .abort s
  | _ =>
    let (w, s) := drawWord s
    if bit w 31 then .abort s else ramTarget (w.toNat % 128 * s.memc.pageBytes + offset) s

/-- The decode of an access by MEMC (R303, R308). DESIGN CHOICE (log 24): in a boot state a write below 0x3000000 that the normal
map would abort does not abort, as R308 names no outcome but the free RAM. -/
def memcTarget (write : Bool) (a : Addr) (trans : Bool) (s₀ : State) : Bus Target :=
  let s := bootStep a s₀
  let al := alignWord a
  let supervisor := !trans
  if s.memc.boot ≠ .normal ∧ write = false then .done (.memory (bootLocation s.plat al)) s
  else if s.memc.boot ≠ .normal ∧ a.toNat < 0x3000000 then .done .bootRam s
  else if a.toNat < 0x2000000 then logicalTarget write al trans s
  else if a.toNat < 0x3000000 then
    if supervisor then ramTarget ((al.toNat - 0x2000000) % (128 * s.memc.pageBytes)) s else .abort s
  else if a.toNat < 0x3400000 then
    if supervisor then .done .io s else .abort s
  else if write then
    if !supervisor then .abort s
    else if a.toNat < 0x3600000 then .done .vidc s
    else if a.toNat < 0x3800000 then .done .register s
    else .done .translator s
  else if a.toNat < 0x3800000 then .done (.memory (lowRomLocation s.plat al)) s
  else .done (.memory (highRomLocation s.plat al)) s

/-- Every byte of main memory becomes free (U33, R492). -/
def scrambleRam (s : State) : State :=
  let others : Memory := s.mem.filter fun c => !(isMain s.plat c.1)
  let mem := (Config.freeRam s.free).foldl (fun m c => if isMain s.plat c.1 then Memory.write m c.1 c.2 else m) others
  { s with mem := mem, free := s.free + 1 }

/-- The bits of a logical page number that page size `code` has: 13, 12, 11 or 10 (R314). -/
def lpnMask (code : BitVec 2) : BitVec 13 := 0x1FFF#13 >>> code.toNat

/-- Free translator entries, each on some logical page of page size `code` (R314, R317). -/
def freeEntries (code : BitVec 2) (n : Nat) : Vector PageEntry 128 :=
  Vector.ofFn fun i =>
    let w := Config.freeWord n (2000 + i.val)
    ⟨field w 0 13 &&& lpnMask code, field w 13 2⟩

/-- Every translator entry becomes free: the page size changed (R317). -/
def scrambleTranslator (s : State) : State :=
  { s with memc := { s.memc with entries := freeEntries s.memc.pageSize s.free }, free := s.free + 1 }

/-- Set the page size; a change scrambles the translator (R317). -/
def setPageSize (code : BitVec 2) (s : State) : State :=
  if s.memc.pageSize = code then s
  else scrambleTranslator { s with memc := { s.memc with pageSize := code } }

/-- A write of the MEMC control register: the value is in the address (R309). Test mode holds the clocks (U34). DESIGN CHOICE (log
26): the "known state" that it gives MEMC (R310) is taken to be the fields written, with the translator and the DMA registers kept. -/
def writeMemcControl (a : Addr) (s : State) : Bus Unit :=
  let s := setPageSize (field a 2 2) s
  let s := { s with memc := { s.memc with
    lowRom := field a 4 2
    highRom := field a 6 2
    refresh := field a 8 2
    videoDma := bit a 10
    soundDma := bit a 11
    osMode := bit a 12
    testMode := bit a 13 } }
  if bit a 13 then .held (hold .memcTestMode s) else .done () s

/-- A forced sound buffer swap (R332). -/
def Memc.swapSound (m : Memc) : Memc :=
  { m with sptr := m.sstart, sendC := m.sendN, sendN := m.sendC, nextValid := false }

/-- A write of a DMA address register (R320), or of the control register. The code is address bits 19:17. -/
def writeMemcRegister (a : Addr) (s : State) : Bus Unit :=
  let v : BitVec 15 := field a 2 15
  match field a 17 3 with
  | 0#3 => .done () { s with memc := { s.memc with vinit := v } }
  | 1#3 => .done () { s with memc := { s.memc with vstart := v } }
  | 2#3 => .done () { s with memc := { s.memc with vend := v } }
  | 3#3 => .done () { s with memc := { s.memc with cinit := v } }
  | 4#3 => .done () { s with memc := { s.memc with sstart := v, nextValid := true } }
  | 5#3 => .done () { s with memc := { s.memc with sendN := v } }
  | 6#3 => .done () { s with memc := s.memc.swapSound }
  | 7#3 => writeMemcControl a s

/-- The physical page number in a translator write (R315). -/
def translatorPpn (size : BitVec 2) (a : Addr) : BitVec 7 :=
  match size with
  | 0#2 => field a 0 7
  | 1#2 => field a 0 1 ++ field a 1 6
  | 2#2 => field a 0 2 ++ field a 2 5
  | 3#2 => field a 1 1 ++ field a 2 1 ++ field a 0 1 ++ field a 3 4

/-- The logical page number in a translator write (R315): the low bits where a logical address has them, the two highest in
A11:A10. -/
def translatorLpn (size : BitVec 2) (a : Addr) : BitVec 13 :=
  match size with
  | 0#2 => field a 10 2 ++ field a 12 11
  | 1#2 => 0#1 ++ field a 10 2 ++ field a 13 10
  | 2#2 => 0#2 ++ field a 10 2 ++ field a 14 9
  | 3#2 => 0#3 ++ field a 10 2 ++ field a 15 8

/-- TranslatorWrite (R315). A7 = 1 is refused (U32). -/
def writeTranslator (a : Addr) (s : State) : Bus Unit :=
  if bit a 7 then .refused .translatorA7
  else
    let size := s.memc.pageSize
    let entry : PageEntry := ⟨translatorLpn size a, field a 8 2⟩
    .done () { s with memc := { s.memc with entries := s.memc.entries.set (translatorPpn size a).toFin entry } }

/-! ## DMA (R321-R336) -/

/-- The aligned word of physical RAM at `pa`, as DMA reads it (R321). With a page size that does not match the RAM the word
is free (U35). -/
def physWord (pa : Nat) (s : State) : Word × State :=
  if s.memc.pageSize = s.plat.ram.pageCode then (s.mem.readWord (ramLocation s.plat pa), s) else drawWord s

/-- The four words of a DMA transfer, in ascending order (R321). -/
def physBlock (p : BitVec 15) (s : State) : List Word × State :=
  let pa := p.toNat * 16
  let (w0, s) := physWord pa s
  let (w1, s) := physWord (pa + 4) s
  let (w2, s) := physWord (pa + 8) s
  let (w3, s) := physWord (pa + 12) s
  ([w0, w1, w2, w3], s)

/-- A FIFO of `depth` words after more words arrive; the oldest are lost when it overflows (log 28). -/
def fifoPush (depth : Nat) (fifo words : List Word) : List Word :=
  (fifo ++ words).drop ((fifo ++ words).length - depth)

/-- MEMC and VIDC are both there, and MEMC is not in test mode, which removes all sources of refresh (R310, log 26). -/
def dmaPossible (s : State) : Bool := s.plat.hasMemc && s.plat.hasVidc && !s.memc.testMode

/-- A video or cursor burst stands to be done (R322, R326). -/
def screenDue (s : State) : Bool := dmaPossible s && s.memc.videoDma && s.vidc.vdrqLow

/-- A sound burst stands to be done (R329). -/
def soundDue (s : State) : Bool := dmaPossible s && s.memc.soundDma && s.vidc.soundWanted

/-- MEMC looks at -HSYC as -VDRQ goes low: low means a cursor burst, high a video burst (R326). -/
def chooseBurst (before s : State) : State :=
  if !before.vidc.vdrqLow && s.vidc.vdrqLow then { s with memc := { s.memc with cursorNext := s.vidc.hsync } } else s

/-- The four -VDAK of a burst answer a request of the burst's kind. DESIGN CHOICE (log 28): where only the other kind is asked for
they answer that, since -VDRQ is one line. -/
def Vidc.answerVideo (v : Vidc) : Vidc :=
  if v.videoWanted = 0#2 then { v with cursorWanted := false } else { v with videoWanted := v.videoWanted - 1#2 }

/-- The same of a cursor burst. -/
def Vidc.answerCursor (v : Vidc) : Vidc :=
  if v.cursorWanted then { v with cursorWanted := false } else { v with videoWanted := v.videoWanted - 1#2 }

/-- VideoDMA (R322), where it is due and -HSYC has chosen it; -HSYC is looked at again for the burst that may follow (R326). -/
def videoDma (s : State) : State :=
  if screenDue s && !s.memc.cursorNext then
    let (words, s) := physBlock s.memc.vptr s
    let m := s.memc
    { s with
      vidc := { s.vidc.answerVideo with videoFifo := fifoPush 8 s.vidc.videoFifo words }
      memc := { m with vptr := if m.vptr = m.vend then m.vstart else m.vptr + 1, cursorNext := s.vidc.hsync } }
  else s

/-- CursorDMA (R326), where it is due and -HSYC has chosen it. -/
def cursorDma (s : State) : State :=
  if screenDue s && s.memc.cursorNext then
    let (words, s) := physBlock s.memc.cptr s
    { s with
      vidc := { s.vidc.answerCursor with cursorFifo := fifoPush 4 s.vidc.cursorFifo words }
      memc := { s.memc with cptr := s.memc.cptr + 1, cursorNext := s.vidc.hsync } }
  else s

/-- Where the sound pointer goes after a block (R329). -/
def Memc.soundNext (m : Memc) : Memc :=
  if m.sptr ≠ m.sendC then { m with sptr := m.sptr + 1 }
  else if m.nextValid then m.swapSound
  else { m with sptr := m.sstart }

/-- SoundDMA (R329), where it is due and no video or cursor burst is: those go first (R335). -/
def soundDma (s : State) : State :=
  if soundDue s && !screenDue s then
    let (words, s) := physBlock s.memc.sptr s
    { s with
      vidc := { s.vidc with soundFifo := fifoPush 4 s.vidc.soundFifo words, soundWanted := false }
      memc := s.memc.soundNext }
  else s

/-- The refresh mode refreshes now (R313): 11 always, 01 during flyback; never in test mode (R310). DESIGN CHOICE (log 28): without a
VIDC, MEMC's FLBK input keeps the level that `vidc.flbk` has after reset. -/
def refreshDue (s : State) : Bool :=
  s.plat.hasMemc && !s.memc.testMode && (s.memc.refresh == 3#2 || (s.memc.refresh == 1#2 && s.vidc.flbk))

/-- A refresh (R313, R325), where no burst is due: every burst goes first (R335). The video pointer counts. -/
def refreshTick (s : State) : State :=
  if refreshDue s && !screenDue s && !soundDue s then
    { s with memc := { s.memc with vptr := s.memc.vptr + 1 } }
  else s

/-- MEMC at RES (R342), with the translator scrambled where the page size changes (R317). -/
def resetMemc (s : State) : State :=
  let s := setPageSize 0#2 s
  { s with memc := { s.memc with
    boot := .boot0
    lowRom := 0
    highRom := 0
    osMode := false
    soundDma := false
    testMode := false
    nextValid := false } }

end Sys2Proof.Machine
end

