-- ==== Sys2Proof/Machine/Events.lean ====
section
/-! DEFINITION. What the outside and the other agents do (R515, D6), between two instructions or between two accesses of one
(R59, R336). -/

namespace Sys2Proof.Machine

/-! ## Cache lines that disappear -/

/-- A line under the key of `(a, trans)` (R280). -/
def lineMatches (tag : BitVec 22) (space : Space) (l : CacheLine) : Bool := l.tag == tag && l.space == space

/-- Drop (R280): the lines under a key disappear. -/
def dropLine (tag : BitVec 22) (space : Space) (s : State) : State :=
  { s with cache := s.cache.filter fun l => !(lineMatches tag space l) }

/-! ## Events -/

/-- The outside drives a pin of IOC (R433). -/
def driveP (p : Pin) (level : Bool) (s : State) : State :=
  let mask : BitVec 19 := 1#19 <<< p.index
  { s with ioc := { s.ioc with ext := if level then s.ioc.ext ||| mask else s.ioc.ext &&& ~~~mask } }

/-- Change VIDC, where it is fitted. -/
def onVidc (f : Vidc → Vidc) (s : State) : State := if s.plat.hasVidc then { s with vidc := f s.vidc } else s

/-- One event. An event of a chip that is not fitted does nothing; FLBK, -HSYC and the requests move by themselves only
while they are unspecified (R387). -/
def applyEvent (e : EnvEvent) (s : State) : State :=
  match e with
  | .ticks n => if s.plat.hasIoc then ticks n s else s
  | .pin p level => driveP p level s
  | .cpuPins nirq nfirq => { s with nirq := nirq, nfirq := nfirq }
  | .kartFrame b => if s.plat.hasIoc then kartFrame b s else s
  | .coincide => { s with ioc := { s.ioc with coinciding := true } }
  | .raster => if s.plat.hasVidc then startRaster s else s
  | .hsyncEnd => onVidc Vidc.endSync s
  | .soundSample => if s.plat.hasVidc then soundSample s else s
  | .sink => if s.plat.hasVidc then sinkPulse s else s
  | .flbkLevel b => if s.plat.hasVidc && s.vidc.unspecified then setFlbk b s else s
  | .hsyncLevel b => onVidc (fun v => if v.unspecified then { v with hsync := b } else v) s
  | .spuriousRequest video cursor sound => onVidc (Vidc.spurious video cursor sound) s
  | .videoDma => videoDma s
  | .cursorDma => cursorDma s
  | .soundDma => soundDma s
  | .refreshTick => refreshTick s
  | .takeVideo => onVidc Vidc.takeVideo s
  | .takeCursor => onVidc Vidc.takeCursor s
  | .dropLine tag space => dropLine tag space s

/-- While FLBK is high Cptr follows Cinit (R327). DESIGN CHOICE (log 28): it does so at the end of each list of events, whatever
cycle the processor makes, where R327 asks for an N-cycle that writes no MEMC register. -/
def followCinit (s : State) : State :=
  if s.vidc.flbk then { s with memc := { s.memc with cptr := s.memc.cinit } } else s

/-- Events in order; after each, MEMC looks at -VDRQ (R326) and IOC's edge detectors at their pins (R407). -/
def applyEvents : List EnvEvent → State → State
  | [], s => separate (followCinit s)
  | e :: es, s => applyEvents es (sampleEdges (chooseBurst s (applyEvent e s)))

/-! ## Between two accesses -/

/-- What happens before an access of the processor (R59, R336): the next entry of the list, nothing where it is exhausted. -/
def takeBatch (s : State) : State :=
  match s.midEvents with
  | [] => separate s
  | b :: rest => applyEvents b { s with midEvents := rest }

/-- An access of the processor begins, unless a reset has cut the instruction (R491). -/
def startAccess (s : State) : Bus Unit :=
  match s.cut with
  | none => .done () (takeBatch s)
  | some 0 => .held s
  | some (n + 1) => .done () (takeBatch { s with cut := some n })

end Sys2Proof.Machine
end

