-- ==== Sys2Proof/Machine/Bus.lean ====
section
/-! DEFINITION. The memory primitives (R44): the platform below the processor (R55, R56), the CPU-020 cache (R280-R291), and
instruction prefetch (R36, R63). -/

namespace Sys2Proof.Machine

/-! ## The platform memory system -/

/-- Where an access goes (R55, R56). Without MEMC it is always the flat memory and never aborts. -/
def busTarget (write : Bool) (a : Addr) (trans : Bool) (s : State) : Bus Target :=
  if s.plat.hasMemc then memcTarget write a trans s else .done (.memory (alignWord a).toNat) s

/-- ExtRead (R281): the aligned word containing `a`, as the bus carries it (R46). Other agents may act before it (R336). -/
def extRead (a : Addr) (trans : Bool) (s : State) : Bus Word :=
  (startAccess s).bind fun _ s => (busTarget false a trans s).bind fun t s =>
    match t with
    | .memory loc => .done (s.mem.readWord loc) s
    | .io => (ioRead a s).bind fun w s => .done w (sampleEdges s)
    | .bootRam | .vidc | .register | .translator => .abort s

/-- Store a word, or the byte that address bits 1:0 select, at the aligned location `loc` (R47). -/
def storeAt (loc : Nat) (a : Addr) (size : Size) (d : Word) (s : State) : State :=
  match size with
  | .word => { s with mem := s.mem.writeWord loc d }
  | .byte => { s with mem := Memory.write s.mem (loc + (field a 0 2).toNat) (byteOfWord d 0) }

/-- ExtWrite (R286), other agents acting before it (R336): the bus carries the word `d` (for a byte store, the byte on all four lanes, R47). It answers whether
memory that can be read back at the same address was written. -/
def extWrite (a : Addr) (size : Size) (d : Word) (trans : Bool) (s : State) : Bus Bool :=
  (startAccess s).bind fun _ s => (busTarget true a trans s).bind fun t s =>
    match t with
    | .memory loc => .done true (storeAt loc a size d s)
    | .bootRam => .done false (scrambleRam s)
    | .io => (ioWrite a d s).bind fun _ s => .done false (sampleEdges s)
    | .vidc =>
      if s.plat.hasVidc then (writeVidc d s).bind fun _ s => .done false (sampleEdges s) else .done false s
    | .register => (writeMemcRegister a s).bind fun _ s => .done false (sampleEdges s)
    | .translator => (writeTranslator a s).bind fun _ s => .done false s

/-! ## The cache of CPU-020 -/

/-- Bit 0 of CP15 register 2 on CPU-020: the cache is on (R274). -/
def cacheOn (s : State) : Bool := s.plat.cpu == .cpu020 && bit s.cp15.r2 0

/-- Area (R277). -/
def area (a : Addr) : BitVec 5 := field a 21 5

/-- Cacheable (R275, R277). -/
def cacheable (a : Addr) (s : State) : Bool := bit s.cp15.r3 (area a).toNat

/-- Updateable (R276, R277). -/
def updateable (a : Addr) (s : State) : Bool := bit s.cp15.r4 (area a).toNat

/-- Disruptive (R277, R278). -/
def disruptive (a : Addr) (s : State) : Bool := bit s.cp15.r5 (area a).toNat

/-- Space (R282, D21). -/
def spaceOf (trans : Bool) (s : State) : Space :=
  if bit s.cp15.r2 1 then .shared else if trans then .user else .nonUser

/-- The tag of an address: the upper part of Key (R280). -/
def tagOf (a : Addr) : BitVec 22 := field a 4 22

/-- The line that holds `a`, if any (R281). -/
def cacheLookup (a : Addr) (trans : Bool) (s : State) : Option CacheLine :=
  s.cache.find? (lineMatches (tagOf a) (spaceOf trans s))

/-- The word of a line that address bits 3:2 select (R281). -/
def lineWord (l : CacheLine) (a : Addr) : Word :=
  match field a 2 2 with
  | 0#2 => l.w0
  | 1#2 => l.w1
  | 2#2 => l.w2
  | 3#2 => l.w3

/-- A line with the word that address bits 3:2 select replaced. -/
def setLineWord (l : CacheLine) (a : Addr) (w : Word) : CacheLine :=
  match field a 2 2 with
  | 0#2 => { l with w0 := w }
  | 1#2 => { l with w1 := w }
  | 2#2 => { l with w2 := w }
  | 3#2 => { l with w3 := w }

/-- Flush (R280, R289). -/
def flushCache (s : State) : State := { s with cache := [] }

/-- Keep a new line: the old one under its key goes; of 256 lines a freely chosen one is dropped (R280, R281, D27). -/
def insertLine (l : CacheLine) (s : State) : State :=
  let rest := s.cache.filter fun x => !(lineMatches l.tag l.space x)
  if rest.length < 256 then { s with cache := l :: rest }
  else
    let (w, s) := drawWord s
    { s with cache := l :: (rest.eraseIdx (w.toNat % 256)).take 255 }

/-- A line fetch (R283): four word reads; an abort counts on the first only. -/
def lineFetch (a : Addr) (trans : Bool) (s : State) : Bus Word :=
  let base : Addr := field a 4 22 ++ 0#4
  (extRead base trans s).bind fun w0 s =>
    let later (k : Addr) (s : State) : Bus Word :=
      match extRead (base + k) trans s with
      | .done w s => .done w s
      | .abort s => let (w, s) := drawWord s; .done w s
      | .held s => .held s
      | .refused r => .refused r
    (later 4 s).bind fun w1 s => (later 8 s).bind fun w2 s => (later 12 s).bind fun w3 s =>
      let l : CacheLine := { tag := tagOf a, space := spaceOf trans s, w0 := w0, w1 := w1, w2 := w2, w3 := w3 }
      .done (lineWord l a) (insertLine l s)

/-- MemRead (R44, R281): the aligned word containing `a`. -/
def memRead (a : Addr) (trans : Bool) (s : State) : Bus Word :=
  if cacheOn s then
    match cacheLookup a trans s with
    | some l => .done (lineWord l a) s
    | none => if cacheable a s then lineFetch a trans s else extRead a trans s
  else extRead a trans s

/-- The word `old` after a store of size `size` at `a` of bus word `d` (R47). -/
def mergeWord (a : Addr) (size : Size) (d old : Word) : Word :=
  match size with
  | .word => d
  | .byte =>
    let b := byteOfWord d 0
    match field a 0 2 with
    | 0#2 => wordOfBytes b (byteOfWord old 1) (byteOfWord old 2) (byteOfWord old 3)
    | 1#2 => wordOfBytes (byteOfWord old 0) b (byteOfWord old 2) (byteOfWord old 3)
    | 2#2 => wordOfBytes (byteOfWord old 0) (byteOfWord old 1) b (byteOfWord old 3)
    | 3#2 => wordOfBytes (byteOfWord old 0) (byteOfWord old 1) (byteOfWord old 2) b

/-- What a write does to the cache (R286, R290): a disruptive area flushes, aborted or not (the choice of R290, log 23); otherwise a write that was not
aborted updates a cached copy in an updateable area. -/
def cacheWrite (a : Addr) (size : Size) (d : Word) (trans aborted : Bool) (s : State) : State :=
  if s.plat.cpu = .cpu020 then
    if disruptive a s then flushCache s
    else if !aborted && updateable a s then
      { s with cache := s.cache.map fun l =>
          if lineMatches (tagOf a) (spaceOf trans s) l then setLineWord l a (mergeWord a size d (lineWord l a)) else l }
    else s
  else s

/-- A prefetched word after a store to its address: the old or the new word (U31, D12). -/
def overlapSlot (fresh : Bool) (a : Addr) (size : Size) (d : Word) (sl : Slot) : Slot :=
  match sl.content with
  | .word w => if fresh then { sl with content := .word (mergeWord a size d w) } else sl
  | .aborted => sl
  | .unspecified _ => sl

/-- A store that reached memory meets the two words already prefetched after the instruction (R63, U31). -/
def overlapPrefetch (a : Addr) (size : Size) (d : Word) (s : State) : State :=
  match s.pipe with
  | [] => s
  | here :: rest =>
    let change (k : Nat) (sl : Slot) : Slot :=
      if field a 2 24 = s.pc + BitVec.ofNat 24 (k + 1) then
        overlapSlot (Config.freeBit s.free (1010 + k)) a size d sl
      else sl
    { s with pipe := here :: rest.mapIdx change, free := s.free + 1 }

/-- MemWrite (R44, R286). `d` is the word the bus carries. -/
def memWrite (a : Addr) (size : Size) (d : Word) (trans : Bool) (s : State) : Bus Unit :=
  match extWrite a size d trans s with
  | .done stored s =>
    let s := cacheWrite a size d trans false s
    .done () (if stored then overlapPrefetch a size d s else s)
  | .abort s => .abort (cacheWrite a size d trans true s)
  | .held s => .held s
  | .refused r => .refused r

/-! ## Instruction prefetch -/

/-- The byte address of a word address. -/
def fetchAddress (pc : PcWord) : Addr := pc ++ 0#2

/-- Fetch one instruction word in the current mode (R46, R50): an abort marks the slot (R455). -/
def fetchSlot (pc : PcWord) (s : State) : Bus Slot :=
  let priv := s.psr.mode != .user
  match memRead (fetchAddress pc) (modeTranslate s) s with
  | .done w s => .done ⟨.word w, priv⟩ s
  | .abort s => .done ⟨.aborted, priv⟩ s
  | .held s => .held s
  | .refused r => .done ⟨.unspecified r, priv⟩ s

/-- Fetch `n` more words behind those in the pipeline. -/
def fetchMore : Nat → State → Bus Unit
  | 0, s => .done () s
  | n + 1, s =>
    (fetchSlot (s.pc + BitVec.ofNat 24 s.pipe.length) s).bind fun sl s =>
      fetchMore n { s with pipe := s.pipe ++ [sl] }

/-- Fetch the word at the PC where nothing is prefetched: an interrupt waits for it after a write of the PC (R121). -/
def fetchFirst (s : State) : Bus Unit := fetchMore (1 - s.pipe.length) s

/-- Fill the pipeline: the word at the PC and the two beyond it (R36, R63). -/
def fillPipe (s : State) : Bus Unit := fetchMore (3 - s.pipe.length) s

end Sys2Proof.Machine
end

