-- ==== Sys2Proof/Machine/BlockTransfer.lean ====
section
/-! DEFINITION. LDM and STM (44_block_data_transfer.md). -/

namespace Sys2Proof.Machine

/-- The register that a block transfer writes its base back to (R193, R196, R197): none without W or for R15. DESIGN CHOICE (log
12): a forced User bank is the User bank also straight after a mode change (R500). -/
def blockBase (user w : Bool) (rn : Reg) (final : Word) (s : State) : Option (PhysReg × Word) :=
  if w && rn != 15#4 then some (phys (if user then .user else writeBank 4 s) rn, final) else none

/-- Do the write-back. -/
def applyBase (wb : Option (PhysReg × Word)) (s : State) : State :=
  match wb with
  | none => s
  | some (p, v) => { s with regs := setPhys s.regs p v }

/-! ## STM -/

/-- The value an STM stores for register `r`, the `k`-th of the list (R195, R196). DESIGN CHOICE (logs 12, 13): a forced User
bank is the User bank also under the hazards of R500 and R501. -/
def storedReg (user : Bool) (k : Nat) (r : Reg) (s : State) : Word :=
  if r = 15#4 then r15Val 12 s else if user then readUser r s else readReg (32 + k) r s

/-- The transfers of an STM (R200) from the aligned address `a` on (R192): each is made whether or not an earlier one aborted;
the base is written back after the first. The answer says whether any aborted. -/
def storeWords (trans user : Bool) : List Reg → Option (PhysReg × Word) → Nat → Addr → State → Bus Bool
  | [], _, _, _, s => .done false s
  | r :: rs, wb, k, a, s =>
    match memWrite a .word (storedReg user k r s) trans s with
    | .done _ s => storeWords trans user rs none (k + 1) (a + 4) (applyBase wb s)
    | .abort s =>
      (storeWords trans user rs none (k + 1) (a + 4) (applyBase wb s)).bind fun _ s => .done true s
    | .held s => .held s
    | .refused r => .refused r

/-- STM (R200, R202). -/
def execStm (c : Cond) (p u sb w : Bool) (rn : Reg) (list : BitVec 16) (s : State) : Out :=
  conditional c s fun s =>
    if list = 0#16 then .refused .emptyRegisterList
    else
      let base := regOrR15 8 0 rn s
      let start := blockStart p u list base
      let user := sb && s.psr.mode != .user
      let wb := blockBase user w rn (blockFinal u list base) s
      if illegalAddress start then raise .addressException (applyBase wb s)
      else
        (storeWords (modeTranslate s) user (listedRegs list) wb 0 (busWord start) s).out
          (fun aborted t => if aborted then raise .dataAbort t else finish t)
          (raise .dataAbort)

/-! ## LDM -/

/-- The reads of an LDM (R201) from the aligned address on (R192): all are issued even after an abort; `none` marks an aborted one. -/
def loadWords (trans : Bool) : List Reg → Addr → State → Bus (List (Option Word))
  | [], _, s => .done [] s
  | _ :: rs, a, s =>
    match memRead a trans s with
    | .done w s => (loadWords trans rs (a + 4) s).bind fun ws s => .done (some w :: ws) s
    | .abort s => (loadWords trans rs (a + 4) s).bind fun ws s => .done (none :: ws) s
    | .held s => .held s
    | .refused r => .refused r

/-- The words before the first aborted one. -/
def wordsBefore : List (Option Word) → List Word
  | some w :: ws => w :: wordsBefore ws
  | none :: _ => []
  | [] => []

/-- The words an LDM moves to registers (R201): all, or after an abort those two or more positions ahead of it. -/
def loadedWords (ws : List (Option Word)) : List Word :=
  let good := wordsBefore ws
  if good.length = ws.length then good else good.take (good.length - 1)

/-- Write the loaded words to registers other than R15 (R197, R201). DESIGN CHOICE (log 12): a forced User bank is under no hazard
of R500. -/
def writeLoaded (user : Bool) : List (Reg × Word) → Nat → State → State
  | [], _, s => s
  | (r, v) :: rest, k, s =>
    let s := if r = 15#4 then s else if user then writeUser r v s else writeReg (32 + k) r v s
    writeLoaded user rest (k + 1) s

/-- The end of an LDM that was not aborted (R197, R198): with R15 in the list its word, the last, goes to the PC and with S to
the PSR; after a User-bank transfer the next instruction is under the hazard of R501. -/
def finishLoad (sb user : Bool) (list : BitVec 16) (words : List Word) (s : State) : Out :=
  if bit list 15 then
    let v := words.getLast?.getD 0#32
    if sb then returnTo v s else finishJump (pcBits v) s
  else if user then
    let t := retire (advance s)
    .next { t with hazard := .userBank t.free }
  else finish s

/-- LDM (R201, R202). The base is written back before the reads; after an abort a base that was overwritten is restored. DESIGN
CHOICE (log 26): where the clocks are held at one of the reads the words already read are not in the registers; nothing runs
before the reset that leaves each of those registers free (R491). -/
def execLdm (c : Cond) (p u sb w : Bool) (rn : Reg) (list : BitVec 16) (s : State) : Out :=
  conditional c s fun s =>
    if list = 0#16 then .refused .emptyRegisterList
    else
      let base := regOrR15 8 0 rn s
      let start := blockStart p u list base
      let final := blockFinal u list base
      let user := sb && s.psr.mode != .user && !(bit list 15)
      let regs := listedRegs list
      let baseReg := phys (if user then .user else writeBank 4 s) rn
      let s1 := applyBase (blockBase user w rn final s) s
      if illegalAddress start then raise .addressException s1
      else
        (loadWords (modeTranslate s) regs (busWord start) s1).out
          (fun ws t =>
            let words := loadedWords ws
            let t := writeLoaded user (regs.zip words) 0 t
            if words.length = regs.length then finishLoad sb user list words t
            else
              let t := if rn != 15#4 && (regs.take words.length).contains rn then
                { t with regs := setPhys t.regs baseReg (if w then final else base) } else t
              raise .dataAbort t)
          (raise .dataAbort)

end Sys2Proof.Machine
end

