-- ==== Sys2Proof/Machine/SingleTransfer.lean ====
section
/-! DEFINITION. LDR, LDRB, STR, STRB with their T forms (43_single_data_transfer.md), and SWP, SWPB (45_swp.md). -/

namespace Sys2Proof.Machine

/-- Whether the modified base is written back (R172). -/
def writesBack (p w : Bool) : Bool := !p || w

/-- The base write-back of a register other than R15 (R172). -/
def writeBackReg (p w : Bool) (rn : Reg) (modified : Word) (s : State) : State :=
  if writesBack p w && rn != 15#4 then writeReg 4 rn modified s else s

/-- The end of a transfer that wrote no PC itself: write-back to R15 is a jump (R178). -/
def finishTransfer (p w : Bool) (rn : Reg) (modified : Word) (s : State) : Out :=
  if writesBack p w && rn == 15#4 then finishJump (pcBits modified) s else finish s

/-- The modified base of a single data transfer (R171). -/
def singleModified (u : Bool) (rn : Reg) (off : Offset) (s : State) : Word :=
  indexed u (regOrPc 8 0 rn s) (evalOffset off s)

/-- The address of a single data transfer (R171). -/
def singleAddress (p u : Bool) (rn : Reg) (off : Offset) (s : State) : Word :=
  transferAddress p (regOrPc 8 0 rn s) (singleModified u rn off s)

/-- LDR and LDRB (R175, R176): `extract` takes the loaded value from the address and the aligned word. An abort or an illegal
address leaves every register alone (R180, R181); the loaded value is written after the base (R179). -/
def singleLoad (extract : Word → Word → Word) (c : Cond) (p u w : Bool) (rn rd : Reg) (off : Offset) (s : State) : Out :=
  conditional c s fun s =>
    let modified := singleModified u rn off s
    let addr := singleAddress p u rn off s
    if illegalAddress addr then raise .addressException s
    else
      (memRead (busAddress addr) (translateBit p w s) s).out
        (fun word t =>
          let data := extract addr word
          let t := writeBackReg p w rn modified t
          if rd = 15#4 then finishJump (pcBits data) t
          else finishTransfer p w rn modified (writeReg 3 rd data t))
        (raise .dataAbort)

/-- STR and STRB (R177, R186): the value is read before the write-back; `data` is what the bus carries of it. -/
def singleStore (size : Size) (data : Word → Word) (c : Cond) (p u w : Bool) (rn rd : Reg) (off : Offset) (s : State) :
    Out :=
  conditional c s fun s =>
    let modified := singleModified u rn off s
    let addr := singleAddress p u rn off s
    let value := regOrR15 12 3 rd s
    if illegalAddress addr then raise .addressException s
    else
      (memWrite (busAddress addr) size (data value) (translateBit p w s) s).out
        (fun _ t => finishTransfer p w rn modified (writeBackReg p w rn modified t))
        (raise .dataAbort)

/-- LDR (R175). -/
def execLdr (c : Cond) (p u w : Bool) (rn rd : Reg) (off : Offset) (s : State) : Out :=
  singleLoad loadRotate c p u w rn rd off s

/-- LDRB (R176). -/
def execLdrb (c : Cond) (p u w : Bool) (rn rd : Reg) (off : Offset) (s : State) : Out :=
  singleLoad loadByte c p u w rn rd off s

/-- STR (R177). -/
def execStr (c : Cond) (p u w : Bool) (rn rd : Reg) (off : Offset) (s : State) : Out :=
  singleStore .word (fun v => v) c p u w rn rd off s

/-- STRB (R186). -/
def execStrb (c : Cond) (p u w : Bool) (rn rd : Reg) (off : Offset) (s : State) : Out :=
  singleStore .byte repeatByte c p u w rn rd off s

/-! ## Swap -/

/-- The address a swap of this size puts on the bus: a word swap accesses the aligned word (R214, D9). -/
def swapAddress (size : Size) (addr : Word) : Addr :=
  match size with
  | .byte => busAddress addr
  | .word => busWord addr

/-- The end of a swap that was not aborted (R213, R214). -/
def finishSwap (rd : Reg) (old : Word) (s : State) : Out :=
  if rd = 15#4 then finishJump (pcBits old) s else finish (writeReg 3 rd old s)

/-- SWP and SWPB (R214, R217): the read goes past the cache, the write is issued even after an aborted read, and an abort of
either leaves Rd alone (R215, R216). On CPU-010 the word is an undefined instruction (R251). -/
def swap (size : Size) (extract : Word → Word → Word) (data : Word → Word) (c : Cond) (rn rd rm : Reg) (s : State) : Out :=
  conditional c s fun s =>
    if s.plat.cpu = .cpu010 then raise .undefined s
    else
      let addr := regOrR15 8 0 rn s
      let src := data (regOrR15 12 1 rm s)
      let trans := modeTranslate s
      if illegalAddress addr then raise .addressException s
      else
        (extRead (swapAddress size addr) trans s).out
          (fun word t =>
            (memWrite (swapAddress size addr) size src trans t).out
              (fun _ t => finishSwap rd (extract addr word) t)
              (raise .dataAbort))
          (fun t =>
            (memWrite (swapAddress size addr) size src trans t).out (fun _ t => raise .dataAbort t) (raise .dataAbort))

/-- SWP (R214). -/
def execSwp (c : Cond) (rn rd rm : Reg) (s : State) : Out :=
  swap .word loadRotate (fun v => v) c rn rd rm s

/-- SWPB (R217). -/
def execSwpb (c : Cond) (rn rd rm : Reg) (s : State) : Out :=
  swap .byte loadByte repeatByte c rn rd rm s

end Sys2Proof.Machine
end

