-- ==== Sys2Proof/Machine/Coprocessor.lean ====
section
/-! DEFINITION. CDO, LDC, STC, MCR, MRC (47_coprocessor.md) and the registers of coprocessor 15 (R270-R279). -/

namespace Sys2Proof.Machine

/-! ## The handshake -/

/-- Change the coprocessor numbered `num`. -/
def updateCoproc (num : Reg) (f : Coproc → Coproc) (s : State) : State :=
  { s with coprocs := s.coprocs.map fun c => if c.num = num then f c else c }

/-- Record what passed to or from coprocessor `num`. -/
def recordEvent (num : Reg) (e : CpEvent) (s : State) : State :=
  updateCoproc num (fun c => { c with log := c.log ++ [e] }) s

/-- CPSPV of the instruction being executed (R243): CPU-020 only. -/
def offeredPriv (s : State) : Option Bool :=
  if s.plat.cpu = .cpu020 then
    some (match s.pipe with
      | sl :: _ => sl.priv
      | [] => s.psr.mode != .user)
  else none

/-- CPoffer (R225): the next answer of the script; no coprocessor of that number, or no answer left, is Absent (R226). -/
def offer (num : Reg) (w : Word) (s : State) : CpAnswer × State :=
  match s.coprocs.find? fun c => c.num = num with
  | none => (.absent, s)
  | some c =>
    let e := CpEvent.offer w (offeredPriv s)
    (c.answers.head?.getD .absent,
      updateCoproc num (fun c => { c with answers := c.answers.tail, log := c.log ++ [e] }) s)

/-- The handshake (R226, R227): absent traps, busy makes no progress and can be interrupted at the next boundary (D19), ready
commits. -/
def handshake (num : Reg) (w : Word) (s : State) (commit : State → Out) : Out :=
  match offer num w s with
  | (.absent, t) => raise .undefined t
  | (.busy, t) => .next { t with free := t.free + 1 }
  | (.ready, t) => commit t

/-- The word a coprocessor supplies next; free where its script has none. -/
def takeSupply (num : Reg) (s : State) : Word × State :=
  match s.coprocs.find? fun c => c.num = num with
  | some { supply := v :: _, .. } => (v, updateCoproc num (fun c => { c with supply := c.supply.tail }) s)
  | _ => drawWord s

/-- How many words more than one the transfer that starts now moves (R239). -/
def takeLength (num : Reg) (s : State) : Nat × State :=
  match s.coprocs.find? fun c => c.num = num with
  | some { lengths := n :: _, .. } => (n, updateCoproc num (fun c => { c with lengths := c.lengths.tail }) s)
  | _ => (0, s)

/-- Coprocessor 15 of CPU-020 is on the chip (R246). -/
def isInternal (cp : Reg) (s : State) : Bool := s.plat.cpu == .cpu020 && cp == 15#4

/-! ## CDO -/

/-- CDO (R228). On CPU-010 an accepted CDO marks the next instruction (R223). -/
def execCdo (c : Cond) (opc : BitVec 4) (crn crd cp : Reg) (aux : BitVec 3) (crm : Reg) (s : State) : Out :=
  conditional c s fun s =>
    if isInternal cp s then raise .undefined s
    else
      let w := encode (.cdo c opc crn crd cp aux crm)
      handshake cp w s fun t =>
        .next { retire (advance (recordEvent cp (.dataop w) t)) with afterCdo := s.plat.cpu == .cpu010 }

/-! ## LDC and STC -/

/-- The modified base of a coprocessor transfer (R229). -/
def coprocModified (u : Bool) (rn : Reg) (off : BitVec 8) (s : State) : Word :=
  indexed u (regOrPc 8 0 rn s) (off.setWidth 32 <<< 2)

/-- The address of the first word of a coprocessor transfer (R229). -/
def coprocAddress (p u : Bool) (rn : Reg) (off : BitVec 8) (s : State) : Word :=
  transferAddress p (regOrPc 8 0 rn s) (coprocModified u rn off s)

/-- One word of an LDC (R232): whether its read aborted; the coprocessor is told either way. -/
def loadOne (num : Reg) (w : Word) (trans : Bool) (k : Nat) (a : Addr) (s : State) : Bus Bool :=
  match memRead a trans s with
  | .done v s => .done false (recordEvent num (.load w k (some v)) s)
  | .abort s => .done true (recordEvent num (.load w k none) s)
  | .held s => .held s
  | .refused r => .refused r

/-- The words of an LDC (R232): `n + 1` of them from word `k` on, going on after an abort (D25). The answer says whether any
aborted. -/
def coprocLoad (num : Reg) (w : Word) (trans : Bool) : Nat → Nat → Addr → State → Bus Bool
  | 0, k, a, s => loadOne num w trans k a s
  | n + 1, k, a, s =>
    (loadOne num w trans k a s).bind fun bad s =>
      (coprocLoad num w trans n (k + 1) (a + 4) s).bind fun b s => .done (bad || b) s

/-- One word of an STC (R233): whether its write aborted. -/
def storeOne (num : Reg) (w : Word) (trans : Bool) (k : Nat) (a : Addr) (s₀ : State) : Bus Bool :=
  let (v, s) := takeSupply num s₀
  match memWrite a .word v trans (recordEvent num (.store w k v) s) with
  | .done _ s => .done false s
  | .abort s => .done true s
  | .held s => .held s
  | .refused r => .refused r

/-- The words of an STC (R233): `n + 1` of them, going on after an abort (D25). -/
def coprocStore (num : Reg) (w : Word) (trans : Bool) : Nat → Nat → Addr → State → Bus Bool
  | 0, k, a, s => storeOne num w trans k a s
  | n + 1, k, a, s =>
    (storeOne num w trans k a s).bind fun bad s =>
      (coprocStore num w trans n (k + 1) (a + 4) s).bind fun b s => .done (bad || b) s

/-- The extra read of an LDC on CPU-020 (R239): its data are dropped and its abort is ignored (D22). -/
def extraRead (trans : Bool) (a : Addr) (s : State) : Bus Unit :=
  if s.plat.cpu = .cpu020 then
    match memRead a trans s with
    | .done _ s => .done () s
    | .abort s => .done () s
    | .held s => .held s
    | .refused _ => .done () s
  else .done () s

/-- The end of a coprocessor transfer (R230, R238): the base is written back even after an abort. -/
def finishCoproc (p w : Bool) (rn : Reg) (modified : Word) (aborted : Bool) (s : State) : Out :=
  let t := writeBackReg p w rn modified s
  if aborted then raise .dataAbort t else finishTransfer p w rn modified t

/-- LDC (R232). -/
def execLdc (c : Cond) (p u n w : Bool) (rn crd cp : Reg) (off : BitVec 8) (s : State) : Out :=
  conditional c s fun s =>
    if isInternal cp s then raise .undefined s
    else
      let word := encode (.ldc c p u n w rn crd cp off)
      let trans := translateBit p w s
      let modified := coprocModified u rn off s
      let addr := coprocAddress p u rn off s
      handshake cp word s fun t =>
        if illegalAddress addr then raise .addressException (writeBackReg p w rn modified t)
        else
          let (len, t) := takeLength cp t
          (coprocLoad cp word trans len 0 (busWord addr) t).out
            (fun aborted t =>
              (extraRead trans (busWord addr + BitVec.ofNat 26 (4 * (len + 1))) t).out
                (fun _ t => finishCoproc p w rn modified aborted t)
                (raise .dataAbort))
            (raise .dataAbort)

/-- STC (R233). -/
def execStc (c : Cond) (p u n w : Bool) (rn crd cp : Reg) (off : BitVec 8) (s : State) : Out :=
  conditional c s fun s =>
    if isInternal cp s then raise .undefined s
    else
      let word := encode (.stc c p u n w rn crd cp off)
      let trans := translateBit p w s
      let modified := coprocModified u rn off s
      let addr := coprocAddress p u rn off s
      handshake cp word s fun t =>
        if illegalAddress addr then raise .addressException (writeBackReg p w rn modified t)
        else
          let (len, t) := takeLength cp t
          (coprocStore cp word trans len 0 (busWord addr) t).out
            (fun aborted t => finishCoproc p w rn modified aborted t)
            (raise .dataAbort)

/-! ## MCR and MRC -/

/-- The end of an MRC (R235, R237): R15 takes only the four flags. -/
def finishMrc (rd : Reg) (v : Word) (s : State) : Out :=
  if rd = 15#4 then finish { s with psr := s.psr.setFlags (bit v 31) (bit v 30) (bit v 29) (bit v 28) }
  else finish (writeReg 3 rd v s)

/-- A write of a coprocessor 15 register (R273-R278). Register 0 and registers 6 to 15 are refused (U22, U20). -/
def writeCp15 (crn : Reg) (v : Word) (s : State) : Bus Unit :=
  match crn with
  | 1#4 => .done () (flushCache s)
  | 2#4 => .done () { s with cp15 := { s.cp15 with r2 := field v 0 3 } }
  | 3#4 => .done () { s with cp15 := { s.cp15 with r3 := v } }
  | 4#4 => .done () { s with cp15 := { s.cp15 with r4 := v } }
  | 5#4 => .done () { s with cp15 := { s.cp15 with r5 := v } }
  | 0#4 => .refused .cp15Direction
  | _ => .refused .cp15Register

/-- A read of a coprocessor 15 register (R272-R278). Register 1 and registers 6 to 15 are refused (U22, U20). -/
def readCp15 (crn : Reg) (s : State) : Bus Word :=
  match crn with
  | 0#4 => .done Config.cp15Identity s
  | 2#4 => .done (s.cp15.r2.setWidth 32) s
  | 3#4 => .done s.cp15.r3 s
  | 4#4 => .done s.cp15.r4 s
  | 5#4 => .done s.cp15.r5 s
  | 1#4 => .refused .cp15Direction
  | _ => .refused .cp15Register

/-- The fields that must be zero in a transfer to coprocessor 15 (R279, U21). -/
def cp15Plain (opc aux : BitVec 3) (crm : Reg) : Bool := opc == 0#3 && aux == 0#3 && crm == 0#4

/-- MCR (R234, R236); to coprocessor 15 of CPU-020 in a non-User mode it writes a control register (R271). -/
def execMcr (c : Cond) (opc : BitVec 3) (crn rd cp : Reg) (aux : BitVec 3) (crm : Reg) (s : State) : Out :=
  conditional c s fun s =>
    let v := regOrR15 12 3 rd s
    if isInternal cp s then
      if s.psr.mode = .user then raise .undefined s
      else if !(cp15Plain opc aux crm) then .refused .cp15Field
      else (writeCp15 crn v s).out (fun _ t => finish t) (raise .dataAbort)
    else
      let w := encode (.mcr c opc crn rd cp aux crm)
      handshake cp w s fun t => finish (recordEvent cp (.fromCpu w v) t)

/-- MRC (R235, R237); from coprocessor 15 of CPU-020 in a non-User mode it reads a control register (R271). -/
def execMrc (c : Cond) (opc : BitVec 3) (crn rd cp : Reg) (aux : BitVec 3) (crm : Reg) (s : State) : Out :=
  conditional c s fun s =>
    if isInternal cp s then
      if s.psr.mode = .user then raise .undefined s
      else if !(cp15Plain opc aux crm) then .refused .cp15Field
      else (readCp15 crn s).out (fun v t => finishMrc rd v t) (raise .dataAbort)
    else
      let w := encode (.mrc c opc crn rd cp aux crm)
      handshake cp w s fun t =>
        let (v, t) := takeSupply cp t
        finishMrc rd v (recordEvent cp (.toCpu w v) t)

end Sys2Proof.Machine
end

