-- ==== Sys2Proof/Machine/Env.lean ====
section
/-! DEFINITION. System reset (R490-R496) and what it leaves of the instruction it abandons (R491). -/

namespace Sys2Proof.Machine

/-! ## Reset -/

/-- A register file of free values. -/
def freeRegs (n : Nat) : RegFile where
  usr := Vector.ofFn fun k => Config.freeWord n (4000 + k.val)
  fiq := Vector.ofFn fun k => Config.freeWord n (4016 + k.val)
  irq := Vector.ofFn fun k => Config.freeWord n (4024 + k.val)
  svc := Vector.ofFn fun k => Config.freeWord n (4026 + k.val)

/-- A FIFO of free length up to `depth` and free contents. -/
def freeFifo (n k depth : Nat) : List Word :=
  (List.range ((Config.freeWord n k).toNat % (depth + 1))).map fun i => Config.freeWord n (k + 1 + i)

/-- A keyboard frame freely in progress or not (R428). -/
def freeFrame (n k : Nat) : Option (Byte × Nat) :=
  let w := Config.freeWord n k
  if bit w 0 then some (field w 1 8, (field w 16 16).toNat % frameReloads + 1) else none

/-- VIDC after power-on: every register, FIFO and counter is free and nothing is programmed (R387). DESIGN CHOICE (log 29): it runs
as in normal operation also where CR bits 15:14 come up as a test mode, and where SFR bit 8 comes up 0 the free counters stand still
and are not cleared (R374). -/
def freeVidc (n : Nat) (v : Vidc) : Vidc :=
  let w := Config.freeWord n 4113
  { v.scrambleRegisters n with
    written := 0
    videoFifo := freeFifo n 4200 8, cursorFifo := freeFifo n 4210 4, soundFifo := freeFifo n 4220 4
    vcount := field (Config.freeWord n 4112) 0 10
    oddField := bit w 0, dummy := bit w 1, flbk := bit w 2, hsync := bit w 4
    videoWanted := BitVec.ofNat 2 ((field w 8 8).toNat % 3), videoTaken := field w 16 2
    cursorWanted := bit w 5, soundWanted := bit w 6
    soundByte := field w 18 2, soundLatch := field w 24 8, channel := field w 20 3 }

/-- IOC after power-on: masks, latches, timers and keyboard link are free and the receiver waits to be initialised (R407, R412,
R420, R428). -/
def freeIoc (n : Nat) (i : Ioc) : Ioc :=
  let w := Config.freeWord n 4116
  let masks := Config.freeWord n 4115
  { i with
    latA := field (Config.freeWord n 4114) 0 5
    maskA := field masks 0 8, maskB := field masks 8 8, maskF := field masks 16 8
    timers := Vector.ofFn fun k =>
      let x := Config.freeWord n (4120 + k.val)
      let y := Config.freeWord n (4124 + k.val)
      ⟨field x 0 16, field x 16 16, field y 0 16, bit y 16⟩
    baud := bit w 10
    rxData := field w 0 8, srx := bit w 8, stx := bit w 9, rxSpoiled := false, rxReady := false
    tx := freeFrame n 4117, rx := freeFrame n 4118 }

/-- MEMC after power-on: Refresh, VideoDMA, the DMA registers and the choice of the next burst are free (R311, R334). -/
def freeMemc (n : Nat) (m : Memc) : Memc :=
  let w (k : Nat) : Word := Config.freeWord n k
  { m with
    refresh := field (w 4101) 0 2
    videoDma := bit (w 4101) 2
    cursorNext := bit (w 4101) 3
    vinit := field (w 4102) 0 15
    vstart := field (w 4103) 0 15
    vend := field (w 4104) 0 15
    cinit := field (w 4105) 0 15
    sstart := field (w 4106) 0 15
    sendN := field (w 4107) 0 15
    vptr := field (w 4108) 0 15
    cptr := field (w 4109) 0 15
    sptr := field (w 4110) 0 15
    sendC := field (w 4111) 0 15 }

/-- Everything that has no value after power-on becomes free (R492, D8): registers, flags, main memory, MEMC's translator and DMA
registers, all of VIDC with its FIFOs, and IOC's masks, latches, timers and keyboard link. -/
def powerOn (s₀ : State) : State :=
  let s := scrambleTranslator (scrambleRam s₀)
  let n := s.free
  let w := Config.freeWord n 4100
  { s with
    regs := freeRegs n
    psr := { s.psr with n := bit w 0, z := bit w 1, c := bit w 2, v := bit w 3 }
    memc := freeMemc n s.memc
    vidc := freeVidc n s.vidc
    ioc := freeIoc n s.ioc
    free := n + 1 }

/-! ## An abandoned instruction (R491) -/

/-- Where the result of an instruction goes: Rd, unless it is R15. -/
def destReg (rd : Reg) (s : State) : List PhysReg := if rd = 15#4 then [] else [phys (writeBank 3 s) rd]

/-- Where the base of a single or coprocessor transfer is written back, if it is (R172, R230). -/
def baseReg (p w : Bool) (rn : Reg) (s : State) : List PhysReg :=
  if writesBack p w && rn != 15#4 then [phys (writeBank 4 s) rn] else []

/-- The registers of a single load: none at an illegal address (R181). -/
def singleLoadRegs (p u w : Bool) (rn rd : Reg) (off : Offset) (s : State) : List PhysReg :=
  if illegalAddress (singleAddress p u rn off s) then [] else baseReg p w rn s ++ destReg rd s

/-- The registers of a single store. -/
def singleStoreRegs (p u w : Bool) (rn : Reg) (off : Offset) (s : State) : List PhysReg :=
  if illegalAddress (singleAddress p u rn off s) then [] else baseReg p w rn s

/-- The registers of a swap: none where it traps (R214, R251). -/
def swapRegs (rn rd : Reg) (s : State) : List PhysReg :=
  if s.plat.cpu = .cpu010 ∨ illegalAddress (regOrR15 8 0 rn s) = true then [] else destReg rd s

/-- The registers of an LDM: the base with W, or where an abort restores it (R201); the listed ones in the bank they are loaded
to (R197), none at an illegal address (R202). Where an access was `reached` the address was legal. -/
def ldmRegs (reached p u sb w : Bool) (rn : Reg) (list : BitVec 16) (s : State) : List PhysReg :=
  let user := sb && s.psr.mode != .user && !(bit list 15)
  let reaches := reached || !illegalAddress (blockStart p u list (regOrR15 8 0 rn s))
  let base := if rn != 15#4 && (w || (reaches && (listedRegs list).contains rn)) then
    [phys (if user then .user else writeBank 4 s) rn] else []
  let loaded := (listedRegs list).zipIdx.filter fun x => reaches && x.1 != 15#4
  base ++ loaded.map fun x => phys (if user then .user else writeBank (32 + x.2) s) x.1

/-- The base of an STM, where it is written back. -/
def stmRegs (sb w : Bool) (rn : Reg) (s : State) : List PhysReg :=
  if w && rn != 15#4 then [phys (if sb && s.psr.mode != .user then .user else writeBank 4 s) rn] else []

/-- An external coprocessor accepts the instruction (R227). -/
def accepted (i : Instr) (cp : Reg) (s : State) : Bool := !isInternal cp s && (offer cp (encode i) s).1 == .ready

/-- MRC writes Rd: an external coprocessor accepts it, or it reads coprocessor 15 outside User mode (R271). -/
def mrcRegs (i : Instr) (opc : BitVec 3) (rd cp : Reg) (aux : BitVec 3) (crm : Reg) (s : State) : List PhysReg :=
  if accepted i cp s || (isInternal cp s && s.psr.mode != .user && cp15Plain opc aux crm) then destReg rd s else []

/-- The physical registers that an instruction whose condition passes may write in this state, other than R14 of the exception
it may take, whether or not its accesses abort. `reached`: it stands at one of its own accesses, so its address is legal, a base
that it writes before its accesses may be written, and a coprocessor has accepted it. -/
def mayWritePhys (reached : Bool) (i : Instr) (s : State) : List PhysReg :=
  match i with
  | .and _ _ _ rd _ | .eor _ _ _ rd _ | .sub _ _ _ rd _ | .rsb _ _ _ rd _ | .add _ _ _ rd _ | .adc _ _ _ rd _
  | .sbc _ _ _ rd _ | .rsc _ _ _ rd _ | .orr _ _ _ rd _ | .mov _ _ _ rd _ | .bic _ _ _ rd _ | .mvn _ _ _ rd _ =>
    destReg rd s
  | .tst _ _ _ _ _ | .teq _ _ _ _ _ | .cmp _ _ _ _ _ | .cmn _ _ _ _ _ => []
  | .mul _ _ rd _ _ _ | .mla _ _ rd _ _ _ => destReg rd s
  | .mulSpace _ _ _ _ => []
  | .swp _ rn rd _ | .swpb _ rn rd _ => swapRegs rn rd s
  | .ldr _ p u w rn rd off | .ldrb _ p u w rn rd off => singleLoadRegs p u w rn rd off s
  | .str _ p u w rn _ off | .strb _ p u w rn _ off => singleStoreRegs p u w rn off s
  | .ldm _ p u sb w rn list => ldmRegs reached p u sb w rn list s
  | .stm _ _ _ sb w rn _ => stmRegs sb w rn s
  | .b _ _ => []
  | .bl _ _ => [phys s.psr.mode 14#4]
  | .ldc _ p _ _ w rn _ cp _ | .stc _ p _ _ w rn _ cp _ => if reached || accepted i cp s then baseReg p w rn s else []
  | .cdo _ _ _ _ _ _ _ | .mcr _ _ _ _ _ _ _ => []
  | .mrc _ opc _ rd cp aux crm => mrcRegs i opc rd cp aux crm s
  | .swi _ _ | .undA _ _ _ _ | .undB _ _ _ => []

/-- Registers of which each freely keeps its value or becomes free. -/
def spoilRegs (n : Nat) (ps : List PhysReg) (r : RegFile) : RegFile :=
  ps.zipIdx.foldl (fun r x =>
    if Config.freeBit n (5000 + 2 * x.2) then setPhys r x.1 (Config.freeWord n (5001 + 2 * x.2)) else r) r

/-- Flags of which each is freely the one before or the one after. -/
def mixFlags (n : Nat) (a b : Psr) : Psr :=
  let pick (k : Nat) (x y : Bool) : Bool := if Config.freeBit n (5200 + k) then y else x
  { b with n := pick 0 a.n b.n, z := pick 1 a.z b.z, c := pick 2 a.c b.c, v := pick 3 a.v b.v }

/-- What is left of a completed or cut instruction: the registers it may write are each as before or free, the flags each as
before or after; one whose condition failed has done nothing. -/
def halfDone (reached : Bool) (i : Instr) (s t : State) : State :=
  let n := t.free
  if condPassed i.cond s.psr then
    { t with regs := spoilRegs n (mayWritePhys reached i s) s.regs, psr := mixFlags n s.psr t.psr, free := n + 1 }
  else t

/-- The meaning of an instruction that a reset abandons: half of what `run` does up to the cut. -/
def abandoned (run : Instr → State → Out) (i : Instr) (s : State) : Out :=
  match run i s with
  | .next t => .next (halfDone false i s t)
  | .fault f => .fault f
  | .refused r => .refused r

/-- The end of a system reset (R490, R492): MEMC and IOC as their reset says, the exception entry of R452 with a free word in
R14_svc, the cache flushed and off, CP15 registers 3 to 5 free, the pipeline empty, the clocks released. After power-on the edge
detectors start from the levels of their pins; after a warm reset they see its edges (R407). -/
def systemReset (kind : ResetKind) (s₀ : State) : State :=
  let s := if kind = .powerOn then powerOn s₀ else s₀
  let s := resetIoc kind (resetMemc s)
  let n := s.free
  let s := { s with
    held := none
    cut := none
    cache := []
    cp15 := ⟨0, Config.freeWord n 5401, Config.freeWord n 5402, Config.freeWord n 5403⟩ }
  let s := enterWith .reset (Config.freeWord n 5400) s
  if kind = .powerOn then primeEdges s else sampleEdges s

end Sys2Proof.Machine
end

