-- ==== Sys2Proof/Machine/Boundary.lean ====
section
/-! DEFINITION. One step in the order of R460, with the meaning of an instruction as a parameter: events, reset, held clocks,
fetch, FIRQ, IRQ, prefetch, prefetch abort, execution. Step.lean gives it `exec`. -/

namespace Sys2Proof.Machine

/-- Execute the word at the head of the filled pipeline: the prefetch abort is taken whatever the word (R455, D13). -/
def executeHead (run : Instr → State → Out) (s : State) : Out :=
  match s.pipe with
  | [] => .next s
  | sl :: _ =>
    match sl.content with
    | .word w => run (decode s.plat.cpu w) s
    | .aborted => raise .prefetchAbort s
    | .unspecified r => .refused r

/-- Fetch and execute the instruction at the PC. -/
def runInstruction (run : Instr → State → Out) (s : State) : Out :=
  (fillPipe s).out (fun _ t => executeHead run t) (fun t => .next t)

/-- FIRQ is accepted at this boundary (R463). -/
def firqAccepted (hide : Bool) (s : State) : Bool := firqLow s && !s.psr.f && !hide

/-- IRQ is accepted at this boundary, FIRQ not being (R464). -/
def irqAccepted (hide : Bool) (s : State) : Bool := irqLow s && !s.psr.i && !hide

/-- A boundary with the clocks running (R460): FIRQ, then IRQ, then the instruction. After a write of the PC the word there is
fetched first (R121). -/
def runBoundary (run : Instr → State → Out) (hideIrq hideFirq : Bool) (s : State) : Out :=
  (fetchFirst s).out
    (fun _ s =>
      if firqAccepted hideFirq s then raise .firq s
      else if irqAccepted hideIrq s then raise .irq s
      else runInstruction run s)
    (fun s => .next s)

/-- What a reset leaves of an instruction that the clocks were held in (R340, R491): stopped at one of its own accesses, with the
pipeline full, it is half done; stopped at the prefetch that goes with its execution it may have begun; before that nothing
has. -/
def abandonHeld (run : Instr → State → Out) (abandons : Option Nat) (s : State) : Out :=
  match s.pipe with
  | [⟨.word w, _⟩, _, _] => .next (halfDone true (decode s.plat.cpu w) s s)
  | [_, _] =>
    match abandons with
    | some _ => executeHead (abandoned run) { s with held := none, cut := some 0 }
    | none => .next s
  | _ => .next s

/-- What a reset leaves of the boundary it falls in (R491): the instruction that the clocks were held in, or one that is abandoned
after some of its accesses, or nothing has begun. DESIGN CHOICE (log 32): an interrupt entry in its place is done whole or has not
begun. -/
def runAbandoned (run : Instr → State → Out) (b : Boundary) (abandons : Option Nat) (s : State) : Out :=
  match s.held, abandons with
  | some _, _ => abandonHeld run abandons s
  | none, some n => runBoundary (abandoned run) b.hideIrq b.hideFirq { s with cut := some n }
  | none, none => .next s

/-- A reset input (R490, R491): one that is too short for CPU-020 is refused (U50). -/
def takeReset (run : Instr → State → Out) (b : Boundary) (r : ResetInput) (s : State) : Out :=
  if s.plat.cpu = .cpu020 ∧ r.tooShort = true then .refused .resetTooShort
  else
    match runAbandoned run b r.abandons s with
    | .next t => .next (systemReset r.kind t)
    | .fault f => .fault f
    | .refused x => .refused x

/-- One step (R460). While the clocks are held only inputs happen (R340, R310); with none left it is the fault. -/
def stepWith (run : Instr → State → Out) (s : State) : Out :=
  match s.inputs with
  | [] =>
    match s.held with
    | some r => .fault (.clocksHeld r)
    | none => runBoundary run false false s
  | b :: rest =>
    let t := applyEvents b.events { s with inputs := rest }
    match b.reset, t.held with
    | some r, _ => takeReset run b r t
    | none, some _ => .next t
    | none, none => runBoundary run b.hideIrq b.hideFirq t

/-- The location from which the instruction at the PC is fetched, if its fetch reads memory. -/
def fetchLocation (s : State) : Option Nat :=
  match busTarget false (fetchAddress s.pc) (modeTranslate s) s with
  | .done (.memory loc) _ => some loc
  | _ => none

/-- `s` with the word `w` where the next instruction is fetched: in memory, or in the pipeline itself where the fetch does not
read memory. Nothing is prefetched, no cache line is held, and no input comes first (log 33). -/
def placeInstruction (w : Word) (s : State) : State :=
  let t := { s with pipe := [], cache := [], inputs := [], midEvents := [], held := none, cut := none }
  match fetchLocation t with
  | some loc => { t with mem := t.mem.writeWord loc w }
  | none => { t with pipe := [⟨.word w, t.psr.mode != .user⟩] }

end Sys2Proof.Machine
end

