-- ==== Sys2Proof/Machine/Branch.lean ====
section
/-! DEFINITION. B and BL (40_branch.md), SWI (46_swi.md) and the undefined instructions (48_undefined.md). -/

namespace Sys2Proof.Machine

/-- The target of a branch (R101): PC + 8 plus the signed word offset, modulo 2^26. -/
def branchTarget (off : BitVec 24) (s : State) : PcWord := pcAhead 8 s + off

/-- B (R100). -/
def execB (c : Cond) (off : BitVec 24) (s : State) : Out :=
  conditional c s fun s => finishJump (branchTarget off s) s

/-- BL (R102): R14 of the current bank receives `R15val(4)`. -/
def execBl (c : Cond) (off : BitVec 24) (s : State) : Out :=
  conditional c s fun s =>
    finishJump (branchTarget off s) { s with regs := setPhys s.regs (phys s.psr.mode 14#4) (r15Val 4 s) }

/-- SWI (R220); on CPU-010 directly after an accepted CDO it takes the undefined-instruction trap (R223, D18). -/
def execSwi (c : Cond) (_comment : BitVec 24) (s : State) : Out :=
  conditional c s fun s =>
    if s.plat.cpu = .cpu010 ∧ s.afterCdo = true then raise .undefined s else raise .swi s

/-- UND-A (R250). -/
def execUndA (c : Cond) (_hi : BitVec 16) (_mid : BitVec 2) (_lo : BitVec 4) (s : State) : Out :=
  conditional c s fun s => raise .undefined s

/-- UND-B (R250). -/
def execUndB (c : Cond) (_hi : BitVec 20) (_lo : BitVec 4) (s : State) : Out :=
  conditional c s fun s => raise .undefined s

end Sys2Proof.Machine
end

