-- ==== Sys2Proof/Machine/DataProcessing.lean ====
section
/-! DEFINITION. Data processing (41_data_processing.md): the skeleton of R111 and the sixteen operations R126-R141. -/

namespace Sys2Proof.Machine

/-- An ALU function of R111: operand 1, operand 2, the C flag, the shifter carry, the V flag. -/
abbrev Alu := Word → Word → Bool → Bool → Bool → AluOut

/-- The end of a compare or test with Rd = 15 and S = 1 (R125): the PSR is written from the result, the PC is not; on CPU-010
a change of mode puts the next instruction under the bank hazard (R500: only after these four forms, log 12). -/
def finishPsr (result : Word) (s : State) : Out :=
  let t := retire (advance { s with psr := writePsr result s.psr })
  .next (if s.plat.cpu = .cpu010 ∧ t.psr.mode ≠ s.psr.mode then { t with hazard := .modeChange s.psr.mode t.free } else t)

/-- The skeleton of R111. `writes` says whether the operation writes its result. -/
def dataProcessing (writes : Bool) (alu : Alu) (c : Cond) (sb : Bool) (rn rd : Reg) (op2 : Op2) (s : State) : Out :=
  conditional c s fun s =>
    let op1 := regOrPc (aheadOf op2) 0 rn s
    let sh := evalOp2 op2 s
    let r := alu op1 sh.value s.psr.c sh.carry s.psr.v
    if rd = 15#4 then
      if writes then
        if sb then returnTo r.result s else finishJump (pcBits r.result) s
      else if sb then finishPsr r.result s
      else finish s
    else
      let t := if writes then writeReg 3 rd r.result s else s
      finish (if sb then { t with psr := t.psr.setFlags r.n r.z r.c r.v } else t)

/-- AND (R126). -/
def execAnd (c : Cond) (sb : Bool) (rn rd : Reg) (op2 : Op2) (s : State) : Out :=
  dataProcessing true (fun a b _ cs v => logicalOut (a &&& b) cs v) c sb rn rd op2 s

/-- EOR (R127). -/
def execEor (c : Cond) (sb : Bool) (rn rd : Reg) (op2 : Op2) (s : State) : Out :=
  dataProcessing true (fun a b _ cs v => logicalOut (a ^^^ b) cs v) c sb rn rd op2 s

/-- SUB (R128). -/
def execSub (c : Cond) (sb : Bool) (rn rd : Reg) (op2 : Op2) (s : State) : Out :=
  dataProcessing true (fun a b _ _ _ => addWithCarry a (~~~b) true) c sb rn rd op2 s

/-- RSB (R129). -/
def execRsb (c : Cond) (sb : Bool) (rn rd : Reg) (op2 : Op2) (s : State) : Out :=
  dataProcessing true (fun a b _ _ _ => addWithCarry b (~~~a) true) c sb rn rd op2 s

/-- ADD (R130). -/
def execAdd (c : Cond) (sb : Bool) (rn rd : Reg) (op2 : Op2) (s : State) : Out :=
  dataProcessing true (fun a b _ _ _ => addWithCarry a b false) c sb rn rd op2 s

/-- ADC (R131). -/
def execAdc (c : Cond) (sb : Bool) (rn rd : Reg) (op2 : Op2) (s : State) : Out :=
  dataProcessing true (fun a b carry _ _ => addWithCarry a b carry) c sb rn rd op2 s

/-- SBC (R132). -/
def execSbc (c : Cond) (sb : Bool) (rn rd : Reg) (op2 : Op2) (s : State) : Out :=
  dataProcessing true (fun a b carry _ _ => addWithCarry a (~~~b) carry) c sb rn rd op2 s

/-- RSC (R133). -/
def execRsc (c : Cond) (sb : Bool) (rn rd : Reg) (op2 : Op2) (s : State) : Out :=
  dataProcessing true (fun a b carry _ _ => addWithCarry b (~~~a) carry) c sb rn rd op2 s

/-- TST (R134). -/
def execTst (c : Cond) (sb : Bool) (rn rd : Reg) (op2 : Op2) (s : State) : Out :=
  dataProcessing false (fun a b _ cs v => logicalOut (a &&& b) cs v) c sb rn rd op2 s

/-- TEQ (R135). -/
def execTeq (c : Cond) (sb : Bool) (rn rd : Reg) (op2 : Op2) (s : State) : Out :=
  dataProcessing false (fun a b _ cs v => logicalOut (a ^^^ b) cs v) c sb rn rd op2 s

/-- CMP (R136). -/
def execCmp (c : Cond) (sb : Bool) (rn rd : Reg) (op2 : Op2) (s : State) : Out :=
  dataProcessing false (fun a b _ _ _ => addWithCarry a (~~~b) true) c sb rn rd op2 s

/-- CMN (R137). -/
def execCmn (c : Cond) (sb : Bool) (rn rd : Reg) (op2 : Op2) (s : State) : Out :=
  dataProcessing false (fun a b _ _ _ => addWithCarry a b false) c sb rn rd op2 s

/-- ORR (R138). -/
def execOrr (c : Cond) (sb : Bool) (rn rd : Reg) (op2 : Op2) (s : State) : Out :=
  dataProcessing true (fun a b _ cs v => logicalOut (a ||| b) cs v) c sb rn rd op2 s

/-- MOV (R139). Operand 1 is ignored. -/
def execMov (c : Cond) (sb : Bool) (rn rd : Reg) (op2 : Op2) (s : State) : Out :=
  dataProcessing true (fun _ b _ cs v => logicalOut b cs v) c sb rn rd op2 s

/-- BIC (R140). -/
def execBic (c : Cond) (sb : Bool) (rn rd : Reg) (op2 : Op2) (s : State) : Out :=
  dataProcessing true (fun a b _ cs v => logicalOut (a &&& ~~~b) cs v) c sb rn rd op2 s

/-- MVN (R141). Operand 1 is ignored. -/
def execMvn (c : Cond) (sb : Bool) (rn rd : Reg) (op2 : Op2) (s : State) : Out :=
  dataProcessing true (fun _ b _ cs v => logicalOut (~~~b) cs v) c sb rn rd op2 s

end Sys2Proof.Machine
end

