-- ==== Sys2Proof/Machine/Multiply.lean ====
section
/-! DEFINITION. MUL, MLA (42_multiply.md) and the unallocated multiply space (R90). -/

namespace Sys2Proof.Machine

/-- With S = 1 and Rd = 15 all four flags become free and nothing else changes (R162, U13, D16). -/
def scrambleFlags (s : State) : State :=
  let (w, s) := drawWord s
  { s with psr := s.psr.setFlags (bit w 0) (bit w 1) (bit w 2) (bit w 3) }

/-- The flags of a multiply (R164): N and Z as given, C free (U14), V unchanged. -/
def multiplyFlags (n z : Bool) (s : State) : State :=
  let (w, s) := drawWord s
  { s with psr := s.psr.setFlags n z (bit w 0) s.psr.v }

/-- The end of a multiply whose result is `result` (R160, R161). -/
def finishMultiply (sb : Bool) (rd : Reg) (result : Word) (s : State) : Out :=
  let t := writeReg 3 rd result s
  finish (if sb then multiplyFlags (bit result 31) (result == 0#32) t else t)

/-- MUL (R160, R162, R163). -/
def execMul (c : Cond) (sb : Bool) (rd _rn rs rm : Reg) (s : State) : Out :=
  conditional c s fun s =>
    let vm := regOrR15 12 1 rm s
    let vs := regOrPc 8 2 rs s
    if rd = 15#4 then finish (if sb then scrambleFlags s else s)
    else if rd = rm then finishMultiply sb rd 0#32 s
    else finishMultiply sb rd (vm * vs) s

/-- MLA (R161, R162, R163). With Rd = Rm the result and, with S = 1, N and Z are free (U12). -/
def execMla (c : Cond) (sb : Bool) (rd rn rs rm : Reg) (s : State) : Out :=
  conditional c s fun s =>
    let vm := regOrR15 12 1 rm s
    let vs := regOrPc 8 2 rs s
    let vn := regOrR15 8 0 rn s
    if rd = 15#4 then finish (if sb then scrambleFlags s else s)
    else if rd = rm then
      let (w, s) := drawWord s
      let (x, s) := drawWord s
      let t := writeReg 3 rd w s
      finish (if sb then multiplyFlags (bit x 0) (bit x 1) t else t)
    else finishMultiply sb rd (vm * vs + vn) s

/-- A word of the unallocated multiply space (R90, U10, D14): the spec refuses it once its condition passes. -/
def execMulSpace (c : Cond) (_hi : BitVec 16) (_mid : BitVec 2) (_lo : BitVec 4) (s : State) : Out :=
  conditional c s fun _ => .refused .unallocatedMultiply

end Sys2Proof.Machine
end

