-- ==== Sys2Proof/Machine/Dispatch.lean ====
section
/-! DEFINITION. The meaning of every instruction: one arm per constructor. -/

namespace Sys2Proof.Machine

def exec (i : Instr) (s : State) : Host.Outcome State Fault Refusal :=
  match i with
  | .and c sb rn rd op2 => Sys2Proof.Machine.execAnd c sb rn rd op2 s
  | .eor c sb rn rd op2 => Sys2Proof.Machine.execEor c sb rn rd op2 s
  | .sub c sb rn rd op2 => Sys2Proof.Machine.execSub c sb rn rd op2 s
  | .rsb c sb rn rd op2 => Sys2Proof.Machine.execRsb c sb rn rd op2 s
  | .add c sb rn rd op2 => Sys2Proof.Machine.execAdd c sb rn rd op2 s
  | .adc c sb rn rd op2 => Sys2Proof.Machine.execAdc c sb rn rd op2 s
  | .sbc c sb rn rd op2 => Sys2Proof.Machine.execSbc c sb rn rd op2 s
  | .rsc c sb rn rd op2 => Sys2Proof.Machine.execRsc c sb rn rd op2 s
  | .tst c sb rn rd op2 => Sys2Proof.Machine.execTst c sb rn rd op2 s
  | .teq c sb rn rd op2 => Sys2Proof.Machine.execTeq c sb rn rd op2 s
  | .cmp c sb rn rd op2 => Sys2Proof.Machine.execCmp c sb rn rd op2 s
  | .cmn c sb rn rd op2 => Sys2Proof.Machine.execCmn c sb rn rd op2 s
  | .orr c sb rn rd op2 => Sys2Proof.Machine.execOrr c sb rn rd op2 s
  | .mov c sb rn rd op2 => Sys2Proof.Machine.execMov c sb rn rd op2 s
  | .bic c sb rn rd op2 => Sys2Proof.Machine.execBic c sb rn rd op2 s
  | .mvn c sb rn rd op2 => Sys2Proof.Machine.execMvn c sb rn rd op2 s
  | .mul c sb rd rn rs rm => Sys2Proof.Machine.execMul c sb rd rn rs rm s
  | .mla c sb rd rn rs rm => Sys2Proof.Machine.execMla c sb rd rn rs rm s
  | .mulSpace c hi mid lo => Sys2Proof.Machine.execMulSpace c hi mid lo s
  | .swp c rn rd rm => Sys2Proof.Machine.execSwp c rn rd rm s
  | .swpb c rn rd rm => Sys2Proof.Machine.execSwpb c rn rd rm s
  | .ldr c p u w rn rd off => Sys2Proof.Machine.execLdr c p u w rn rd off s
  | .ldrb c p u w rn rd off => Sys2Proof.Machine.execLdrb c p u w rn rd off s
  | .str c p u w rn rd off => Sys2Proof.Machine.execStr c p u w rn rd off s
  | .strb c p u w rn rd off => Sys2Proof.Machine.execStrb c p u w rn rd off s
  | .stm c p u sb w rn list => Sys2Proof.Machine.execStm c p u sb w rn list s
  | .ldm c p u sb w rn list => Sys2Proof.Machine.execLdm c p u sb w rn list s
  | .b c off => Sys2Proof.Machine.execB c off s
  | .bl c off => Sys2Proof.Machine.execBl c off s
  | .stc c p u n w rn crd cp off => Sys2Proof.Machine.execStc c p u n w rn crd cp off s
  | .ldc c p u n w rn crd cp off => Sys2Proof.Machine.execLdc c p u n w rn crd cp off s
  | .cdo c opc crn crd cp aux crm => Sys2Proof.Machine.execCdo c opc crn crd cp aux crm s
  | .mcr c opc crn rd cp aux crm => Sys2Proof.Machine.execMcr c opc crn rd cp aux crm s
  | .mrc c opc crn rd cp aux crm => Sys2Proof.Machine.execMrc c opc crn rd cp aux crm s
  | .swi c comment => Sys2Proof.Machine.execSwi c comment s
  | .undA c hi mid lo => Sys2Proof.Machine.execUndA c hi mid lo s
  | .undB c hi lo => Sys2Proof.Machine.execUndB c hi lo s

end Sys2Proof.Machine
end

