-- ==== Sys2Proof/Machine/Step.lean ====
section
/-! DEFINITION. The step of the machine, and placing an instruction where the step fetches it. -/

namespace Sys2Proof.Machine

/-- One step (R460): `stepWith` of Boundary.lean with the meanings of Dispatch.lean. -/
def step (s : State) : Host.Outcome State Fault Refusal := stepWith exec s

/-- `s` with the instruction word `w` (bits above `nbits` zero) where the next step fetches (log 33). -/
def State.withFetchWord (s : State) (nbits w : Nat) : State :=
  placeInstruction (BitVec.ofNat 32 (w % 2 ^ nbits)) s

end Sys2Proof.Machine
end

