-- ==== Sys2Proof/Safety.lean ====
section
/-! DEFINITION. The terms in which statements speak of safe runs: when a step completes, what an access leaves alone, the
invariant of the state. -/

namespace Sys2Proof

open Sys2Proof.Machine

/-- A step or a meaning completes: it answers a next state. -/
def Machine.Completes (o : Out) : Prop := ∃ t, o = .next t

/-- A property of the state an access leaves, whatever it answers; a refusal leaves none. -/
def Machine.leaves {α : Type} (P : State → Prop) (b : Bus α) : Prop :=
  match b with
  | .done _ t => P t
  | .abort t => P t
  | .held t => P t
  | .refused _ => True

/-- `t` has the processor of `s`: an access changes no register, not the PSR, not coprocessor 15 and no coprocessor, and a
reset that has not cut the instruction does not cut it. -/
structure Machine.SameCore (s t : State) : Prop where
  plat : t.plat = s.plat
  regs : t.regs = s.regs
  psr : t.psr = s.psr
  pc : t.pc = s.pc
  hazard : t.hazard = s.hazard
  afterCdo : t.afterCdo = s.afterCdo
  cp15 : t.cp15 = s.cp15
  coprocs : t.coprocs = s.coprocs
  inputs : t.inputs = s.inputs
  cut : s.cut = none → t.cut = none

/-- `t` has the processor and the memory of `s`. -/
def Machine.SameStore (s t : State) : Prop := SameCore s t ∧ t.mem = s.mem

/-! ## The next states that statements name -/

/-- The PSR with N and Z of the result `r`, and C and V as given (R117, R118). -/
def Machine.flagsOf (r : Word) (c v : Bool) (p : Psr) : Psr := { p with n := bit r 31, z := r == 0#32, c := c, v := v }

/-- A signed sum that 32 bits cannot hold (R118). -/
def Machine.signedOverflow (x : Int) : Bool := decide (x < -2 ^ 31 ∨ 2 ^ 31 ≤ x)

/-- The next state of an instruction that writes `r` to `rd`, sets the flags where `sb` says so, and goes on. -/
def Machine.wrote (sb : Bool) (rd : Reg) (r : Word) (c v : Bool) (s : State) : State :=
  retire (advance { writeReg 3 rd r s with psr := if sb then flagsOf r c v s.psr else s.psr })

/-- The next state of a compare or test of result `r`. -/
def Machine.tested (sb : Bool) (r : Word) (c v : Bool) (s : State) : State :=
  retire (advance { s with psr := if sb then flagsOf r c v s.psr else s.psr })

/-- The next state of an instruction that writes `r` to R15: the PC, and with `sb` the PSR (R124, R125). -/
def Machine.wrotePc (sb : Bool) (r : Word) (s : State) : State :=
  retire (jump (pcBits r) { s with psr := if sb then writePsr r s.psr else s.psr })

/-- The next state of a transfer whose accesses ended in `t`: write-back, also to R15 (R172, R178). -/
def Machine.transferred (p w : Bool) (rn : Reg) (modified : Word) (t : State) : State :=
  if writesBack p w = true ∧ rn = 15#4 then retire (jump (pcBits modified) t)
  else retire (advance (writeBackReg p w rn modified t))

/-! ## Which instructions do what -/

/-- The instructions that access memory. -/
def Machine.accessesMemory : Instr → Bool
  | .swp _ _ _ _ | .swpb _ _ _ _ => true
  | .ldr _ _ _ _ _ _ _ | .ldrb _ _ _ _ _ _ _ | .str _ _ _ _ _ _ _ | .strb _ _ _ _ _ _ _ => true
  | .stm _ _ _ _ _ _ _ | .ldm _ _ _ _ _ _ _ => true
  | .stc _ _ _ _ _ _ _ _ _ | .ldc _ _ _ _ _ _ _ _ _ => true
  | .and _ _ _ _ _ | .eor _ _ _ _ _ | .sub _ _ _ _ _ | .rsb _ _ _ _ _ | .add _ _ _ _ _ | .adc _ _ _ _ _
  | .sbc _ _ _ _ _ | .rsc _ _ _ _ _ | .tst _ _ _ _ _ | .teq _ _ _ _ _ | .cmp _ _ _ _ _ | .cmn _ _ _ _ _
  | .orr _ _ _ _ _ | .mov _ _ _ _ _ | .bic _ _ _ _ _ | .mvn _ _ _ _ _ => false
  | .mul _ _ _ _ _ _ | .mla _ _ _ _ _ _ | .mulSpace _ _ _ _ => false
  | .b _ _ | .bl _ _ => false
  | .cdo _ _ _ _ _ _ _ | .mcr _ _ _ _ _ _ _ | .mrc _ _ _ _ _ _ _ => false
  | .swi _ _ | .undA _ _ _ _ | .undB _ _ _ => false

/-- The register that an instruction without memory access writes; BL writes R14. -/
def Machine.destination : Instr → Option Reg
  | .and _ _ _ rd _ | .eor _ _ _ rd _ | .sub _ _ _ rd _ | .rsb _ _ _ rd _ | .add _ _ _ rd _ | .adc _ _ _ rd _
  | .sbc _ _ _ rd _ | .rsc _ _ _ rd _ | .orr _ _ _ rd _ | .mov _ _ _ rd _ | .bic _ _ _ rd _ | .mvn _ _ _ rd _ => some rd
  | .mul _ _ rd _ _ _ | .mla _ _ rd _ _ _ => some rd
  | .mrc _ _ _ rd _ _ _ => some rd
  | .bl _ _ => some 14#4
  | .tst _ _ _ _ _ | .teq _ _ _ _ _ | .cmp _ _ _ _ _ | .cmn _ _ _ _ _ | .mulSpace _ _ _ _ | .b _ _
  | .cdo _ _ _ _ _ _ _ | .mcr _ _ _ _ _ _ _ | .swi _ _ | .undA _ _ _ _ | .undB _ _ _ => none
  | .swp _ _ _ _ | .swpb _ _ _ _ | .ldr _ _ _ _ _ _ _ | .ldrb _ _ _ _ _ _ _ | .str _ _ _ _ _ _ _ | .strb _ _ _ _ _ _ _
  | .stm _ _ _ _ _ _ _ | .ldm _ _ _ _ _ _ _ | .stc _ _ _ _ _ _ _ _ _ | .ldc _ _ _ _ _ _ _ _ _ => none

/-- The instructions without memory access that the spec lets write the PSR themselves: S = 1, or MRC to R15. -/
def Machine.mayWritePsr : Instr → Bool
  | .and _ sb _ _ _ | .eor _ sb _ _ _ | .sub _ sb _ _ _ | .rsb _ sb _ _ _ | .add _ sb _ _ _ | .adc _ sb _ _ _
  | .sbc _ sb _ _ _ | .rsc _ sb _ _ _ | .tst _ sb _ _ _ | .teq _ sb _ _ _ | .cmp _ sb _ _ _ | .cmn _ sb _ _ _
  | .orr _ sb _ _ _ | .mov _ sb _ _ _ | .bic _ sb _ _ _ | .mvn _ sb _ _ _ => sb
  | .mul _ sb _ _ _ _ | .mla _ sb _ _ _ _ => sb
  | .mrc _ _ _ rd _ _ _ => rd == 15#4
  | .mulSpace _ _ _ _ | .b _ _ | .bl _ _ | .cdo _ _ _ _ _ _ _ | .mcr _ _ _ _ _ _ _ | .swi _ _ | .undA _ _ _ _
  | .undB _ _ _ => false
  | .swp _ _ _ _ | .swpb _ _ _ _ | .ldr _ _ _ _ _ _ _ | .ldrb _ _ _ _ _ _ _ | .str _ _ _ _ _ _ _ | .strb _ _ _ _ _ _ _
  | .stm _ _ _ _ _ _ _ | .ldm _ _ _ _ _ _ _ | .stc _ _ _ _ _ _ _ _ _ | .ldc _ _ _ _ _ _ _ _ _ => false

/-- The instructions whose effect writes the PC (R28, R36): the branches, R15 as the destination of a result, a load, a swap or an
LDM, a write-back to R15 (R178), and those whose effect is an exception. -/
def Machine.writesPc : Instr → Bool
  | .and _ _ _ rd _ | .eor _ _ _ rd _ | .sub _ _ _ rd _ | .rsb _ _ _ rd _ | .add _ _ _ rd _ | .adc _ _ _ rd _
  | .sbc _ _ _ rd _ | .rsc _ _ _ rd _ | .orr _ _ _ rd _ | .mov _ _ _ rd _ | .bic _ _ _ rd _ | .mvn _ _ _ rd _ => rd == 15#4
  | .ldr _ p _ w rn rd _ | .ldrb _ p _ w rn rd _ => rd == 15#4 || (writesBack p w && rn == 15#4)
  | .str _ p _ w rn _ _ | .strb _ p _ w rn _ _ => writesBack p w && rn == 15#4
  | .swp _ _ rd _ | .swpb _ _ rd _ => rd == 15#4
  | .ldm _ _ _ _ _ _ l => bit l 15
  | .b _ _ | .bl _ _ | .swi _ _ | .undA _ _ _ _ | .undB _ _ _ => true
  | .tst _ _ _ _ _ | .teq _ _ _ _ _ | .cmp _ _ _ _ _ | .cmn _ _ _ _ _ | .mul _ _ _ _ _ _ | .mla _ _ _ _ _ _
  | .mulSpace _ _ _ _ | .stm _ _ _ _ _ _ _ | .stc _ _ _ _ _ _ _ _ _ | .ldc _ _ _ _ _ _ _ _ _ | .cdo _ _ _ _ _ _ _
  | .mcr _ _ _ _ _ _ _ | .mrc _ _ _ _ _ _ _ => false

/-- The coprocessor number of a coprocessor instruction (R225). -/
def Machine.coprocessorOf : Instr → Option Reg
  | .cdo _ _ _ _ cp _ _ | .mcr _ _ _ _ cp _ _ | .mrc _ _ _ _ cp _ _ => some cp
  | .stc _ _ _ _ _ _ _ cp _ | .ldc _ _ _ _ _ _ _ cp _ => some cp
  | .and _ _ _ _ _ | .eor _ _ _ _ _ | .sub _ _ _ _ _ | .rsb _ _ _ _ _ | .add _ _ _ _ _ | .adc _ _ _ _ _
  | .sbc _ _ _ _ _ | .rsc _ _ _ _ _ | .tst _ _ _ _ _ | .teq _ _ _ _ _ | .cmp _ _ _ _ _ | .cmn _ _ _ _ _
  | .orr _ _ _ _ _ | .mov _ _ _ _ _ | .bic _ _ _ _ _ | .mvn _ _ _ _ _ => none
  | .mul _ _ _ _ _ _ | .mla _ _ _ _ _ _ | .mulSpace _ _ _ _ | .swp _ _ _ _ | .swpb _ _ _ _ => none
  | .ldr _ _ _ _ _ _ _ | .ldrb _ _ _ _ _ _ _ | .str _ _ _ _ _ _ _ | .strb _ _ _ _ _ _ _ => none
  | .stm _ _ _ _ _ _ _ | .ldm _ _ _ _ _ _ _ | .b _ _ | .bl _ _ | .swi _ _ | .undA _ _ _ _ | .undB _ _ _ => none

/-! ## What every step keeps -/

/-- Every cached line has its own key, and there are at most 256 (R280). -/
def Machine.cacheWf (s : State) : Prop :=
  s.cache.length ≤ 256 ∧ (s.cache.map fun l => (l.tag, l.space)).Nodup

/-- Every translator entry maps a logical page of the page size (R314). -/
def Machine.entriesWf (m : Memc) : Prop := ∀ k : Fin 128, (m.entries[k].lpn).toNat < 2 ^ (13 - m.pageSize.toNat)

/-- The invariant of the machine: memory in canonical form (log 7), the cache within its size with one line per key (R280), at
most three words prefetched (R36), every translator entry on some logical page (R314), and no instruction half abandoned. -/
def Machine.Inv (s : State) : Prop :=
  Memory.wf s.mem = true ∧ cacheWf s ∧ s.pipe.length ≤ 3 ∧ entriesWf s.memc ∧ s.cut = none

end Sys2Proof
end

