-- ==== Sys2Proof/Certificates/Slice0/Obligations.lean ====
section
/-! DEFINITION. The statements for the provers. A register or field without a spec value is never stated at a value the model
chose; free values are quantified. -/

open Sys2Proof Sys2Proof.Machine

/-- Decoding the word of a well-formed instruction gives the instruction back (30_encoding.md R71, 30_encoding.md R74). -/
def Obligations.DecodeEncode : Prop :=
  ∀ (cpu : Cpu) (i : Instr), i.wf cpu = true → decode cpu (encode i) = i

/-- Every word is the word of exactly the well-formed instruction it decodes to (30_encoding.md R74, 30_encoding.md R71).
-/
def Obligations.EncodeDecode : Prop :=
  ∀ (cpu : Cpu) (w : Word), (decode cpu w).wf cpu = true ∧ encode (decode cpu w) = w

/-- The undefined patterns, and the one difference in decoding between the processors (30_encoding.md R89, 30_encoding.md
R94, 48_undefined.md R251). -/
def Obligations.UndefinedSpace : Prop :=
  ∀ w : Word,
    ((∃ c hi mid lo, decode .cpu010 w = .undA c hi mid lo) ↔ w &&& 0x0F000090#32 = 0x01000090#32) ∧
    (∀ cpu, (∃ c hi lo, decode cpu w = .undB c hi lo) ↔ w &&& 0x0E000010#32 = 0x06000010#32) ∧
    (decode .cpu010 w ≠ decode .cpu020 w ↔ w &&& 0x0FB00FF0#32 = 0x01000090#32)

/-- Words written out from the encodings decode to the instructions they stand for, low byte first (30_encoding.md R71,
30_encoding.md R70, 20_memory.md R45). -/
def Obligations.DecodeWords : Prop :=
  decodeBytes .cpu020 [0x02#8, 0x00#8, 0x91#8, 0xE0#8] = .ok (.add .al true 1#4 0#4 (.shImm 0#5 .lsl 2#4), []) ∧
  decodeBytes .cpu020 [0x04#8, 0x00#8, 0x91#8, 0xE5#8] = .ok (.ldr .al true true false 1#4 0#4 (.imm 4#12), []) ∧
  decodeBytes .cpu020 [0x91#8, 0x02#8, 0x00#8, 0xE0#8] = .ok (.mul .al false 0#4 0#4 2#4 1#4, []) ∧
  decodeBytes .cpu020 [0x01#8, 0x40#8, 0x2D#8, 0xE9#8] = .ok (.stm .al true false false true 13#4 0x4001#16, []) ∧
  decodeBytes .cpu020 [0xFE#8, 0xFF#8, 0xFF#8, 0xEA#8] = .ok (.b .al 0xFFFFFE#24, []) ∧
  decodeBytes .cpu020 [0x56#8, 0x34#8, 0x12#8, 0xEF#8] = .ok (.swi .al 0x123456#24, []) ∧
  decodeBytes .cpu020 [0x91#8, 0x00#8, 0x02#8, 0xE1#8] = .ok (.swp .al 2#4 0#4 1#4, []) ∧
  decodeBytes .cpu010 [0x91#8, 0x00#8, 0x02#8, 0xE1#8] = .ok (.undA .al 0x0200#16 0#2 1#4, []) ∧
  decodeBytes .cpu020 [0x10#8, 0x0F#8, 0x10#8, 0xEE#8] = .ok (.mrc .al 0#3 0#4 0#4 15#4 0#3 0#4, [])

/-- A step runs the instruction that the bytes at the PC decode to (60_exceptions.md R460, 10_state.md R36,
60_exceptions.md R455, 30_encoding.md R70, 41_data_processing.md R121). That a prefetch abort ignores the condition is the
decision D13 (log 10), the time of the fetches D12 (log 9), the flat memory without MEMC D3 (log 38). -/
def Obligations.StepRunsDecoded : Prop :=
  (∀ (s u t : State) (priv : Bool) (rest : List Slot),
    s.inputs = [] → s.held = none → fetchFirst s = .done () u →
    firqAccepted false u = false → irqAccepted false u = false → fillPipe u = .done () t →
      (t.regs = s.regs ∧ t.psr = s.psr ∧ t.pc = s.pc ∧ t.mem = s.mem) ∧
      (∀ w : Word, t.pipe = ⟨.word w, priv⟩ :: rest → step s = exec (decode s.plat.cpu w) t) ∧
      (t.pipe = ⟨.aborted, priv⟩ :: rest → step s = .next (enter .prefetchAbort t))) ∧
  (∀ (s : State) (i : Instr),
    s.inputs = [] → s.held = none → s.cut = none → s.midEvents = [] →
    firqAccepted false s = false → irqAccepted false s = false →
    s.pipe = [] → s.plat.hasMemc = false → cacheOn s = false →
    let loc := (fetchAddress s.pc).toNat
    let slot (k : PcWord) : Slot := ⟨.word (s.mem.readWord (fetchAddress (s.pc + k)).toNat), s.psr.mode != .user⟩
    decodeBytes s.plat.cpu [s.mem.read loc, s.mem.read (loc + 1), s.mem.read (loc + 2), s.mem.read (loc + 3)] = .ok (i, []) →
      step s = exec i { separate s with pipe := [slot 0, slot 1, slot 2] })

/-- An enabled FIRQ is taken before an enabled IRQ, and both before the instruction (60_exceptions.md R460,
60_exceptions.md R463, 60_exceptions.md R464, 41_data_processing.md R121). That the pins are looked at once at each
boundary is the decision D33 (log 11). -/
def Obligations.InterruptPriority : Prop :=
  ∀ s u : State, s.inputs = [] → s.held = none → fetchFirst s = .done () u →
    (u.pc = s.pc ∧ u.psr = s.psr ∧ u.regs = s.regs ∧ u.pipe ≠ [] ∧ (s.pipe ≠ [] → u = s)) ∧
    (firqLow u = true → u.psr.f = false → step s = .next (enter .firq u)) ∧
    ((firqLow u = false ∨ u.psr.f = true) → irqLow u = true → u.psr.i = false → step s = .next (enter .irq u))

/-- An instruction whose condition is false only advances the PC (30_encoding.md R73). -/
def Obligations.ConditionFails : Prop :=
  ∀ (i : Instr) (s : State), condPassed i.cond s.psr = false →
    ∃ t, exec i s = .next t ∧ t.pc = s.pc + 1 ∧ t.regs = s.regs ∧ t.psr = s.psr ∧ t.mem = s.mem ∧ t.cp15 = s.cp15 ∧
      t.cache = s.cache ∧ t.memc = s.memc ∧ t.vidc = s.vidc ∧ t.ioc = s.ioc ∧ t.coprocs = s.coprocs ∧ t.devices = s.devices ∧ t.held = s.held

/-- After CMP the conditions compare the operands as unsigned and signed numbers (30_encoding.md R72,
41_data_processing.md R118, 41_data_processing.md R136). -/
def Obligations.CompareConditions : Prop :=
  ∀ (c : Cond) (rn rd : Reg) (op2 : Op2) (s t : State),
    condPassed c s.psr = true → rd ≠ 15#4 → exec (.cmp c true rn rd op2) s = .next t →
    let a := regOrPc (aheadOf op2) 0 rn s
    let b := (evalOp2 op2 s).value
    (condPassed .eq t.psr = decide (a = b) ∧ condPassed .ne t.psr = !decide (a = b)) ∧
    (condPassed .cs t.psr = decide (b.toNat ≤ a.toNat) ∧ condPassed .cc t.psr = !decide (b.toNat ≤ a.toNat)) ∧
    (condPassed .hi t.psr = decide (b.toNat < a.toNat) ∧ condPassed .ls t.psr = !decide (b.toNat < a.toNat)) ∧
    (condPassed .ge t.psr = decide (b.toInt ≤ a.toInt) ∧ condPassed .lt t.psr = !decide (b.toInt ≤ a.toInt)) ∧
    (condPassed .gt t.psr = decide (b.toInt < a.toInt) ∧ condPassed .le t.psr = !decide (b.toInt < a.toInt))

/-- AND, EOR, ORR, MOV, BIC and MVN: the next state (41_data_processing.md R111, 41_data_processing.md R117,
41_data_processing.md R126, 41_data_processing.md R127, 41_data_processing.md R138, 41_data_processing.md R139,
41_data_processing.md R140, 41_data_processing.md R141). -/
def Obligations.LogicalResult : Prop :=
  ∀ (c : Cond) (sb : Bool) (rn rd : Reg) (op2 : Op2) (s : State), condPassed c s.psr = true → rd ≠ 15#4 →
    let a := regOrPc (aheadOf op2) 0 rn s
    let b := (evalOp2 op2 s).value
    let k := (evalOp2 op2 s).carry
    exec (.and c sb rn rd op2) s = .next (wrote sb rd (a &&& b) k s.psr.v s) ∧
    exec (.eor c sb rn rd op2) s = .next (wrote sb rd (a ^^^ b) k s.psr.v s) ∧
    exec (.orr c sb rn rd op2) s = .next (wrote sb rd (a ||| b) k s.psr.v s) ∧
    exec (.mov c sb rn rd op2) s = .next (wrote sb rd b k s.psr.v s) ∧
    exec (.bic c sb rn rd op2) s = .next (wrote sb rd (a &&& ~~~b) k s.psr.v s) ∧
    exec (.mvn c sb rn rd op2) s = .next (wrote sb rd (~~~b) k s.psr.v s)

/-- ADD, ADC, SUB, SBC, RSB and RSC: the next state, carry as an unsigned and overflow as a signed fact
(41_data_processing.md R111, 41_data_processing.md R118, 41_data_processing.md R128, 41_data_processing.md R129,
41_data_processing.md R130, 41_data_processing.md R131, 41_data_processing.md R132, 41_data_processing.md R133). -/
def Obligations.ArithmeticResult : Prop :=
  ∀ (c : Cond) (sb : Bool) (rn rd : Reg) (op2 : Op2) (s : State), condPassed c s.psr = true → rd ≠ 15#4 →
    let a := regOrPc (aheadOf op2) 0 rn s
    let b := (evalOp2 op2 s).value
    let one : Nat := if s.psr.c then 1 else 0
    let less : Nat := if s.psr.c then 0 else 1
    exec (.add c sb rn rd op2) s =
      .next (wrote sb rd (a + b) (decide (2 ^ 32 ≤ a.toNat + b.toNat)) (signedOverflow (a.toInt + b.toInt)) s) ∧
    exec (.adc c sb rn rd op2) s =
      .next (wrote sb rd (a + b + BitVec.ofNat 32 one) (decide (2 ^ 32 ≤ a.toNat + b.toNat + one))
        (signedOverflow (a.toInt + b.toInt + one)) s) ∧
    exec (.sub c sb rn rd op2) s =
      .next (wrote sb rd (a - b) (decide (b.toNat ≤ a.toNat)) (signedOverflow (a.toInt - b.toInt)) s) ∧
    exec (.sbc c sb rn rd op2) s =
      .next (wrote sb rd (a - b - BitVec.ofNat 32 less) (decide (b.toNat + less ≤ a.toNat))
        (signedOverflow (a.toInt - b.toInt - less)) s) ∧
    exec (.rsb c sb rn rd op2) s =
      .next (wrote sb rd (b - a) (decide (a.toNat ≤ b.toNat)) (signedOverflow (b.toInt - a.toInt)) s) ∧
    exec (.rsc c sb rn rd op2) s =
      .next (wrote sb rd (b - a - BitVec.ofNat 32 less) (decide (a.toNat + less ≤ b.toNat))
        (signedOverflow (b.toInt - a.toInt - less)) s)

/-- TST, TEQ, CMP and CMN: the next state (41_data_processing.md R120, 41_data_processing.md R134, 41_data_processing.md
R135, 41_data_processing.md R136, 41_data_processing.md R137, 41_data_processing.md R117, 41_data_processing.md R118).
That S = 0 changes nothing is a derivation of the spec (U11, log 36). -/
def Obligations.TestResult : Prop :=
  ∀ (c : Cond) (sb : Bool) (rn rd : Reg) (op2 : Op2) (s : State), condPassed c s.psr = true → rd ≠ 15#4 →
    let a := regOrPc (aheadOf op2) 0 rn s
    let b := (evalOp2 op2 s).value
    let k := (evalOp2 op2 s).carry
    exec (.tst c sb rn rd op2) s = .next (tested sb (a &&& b) k s.psr.v s) ∧
    exec (.teq c sb rn rd op2) s = .next (tested sb (a ^^^ b) k s.psr.v s) ∧
    exec (.cmp c sb rn rd op2) s =
      .next (tested sb (a - b) (decide (b.toNat ≤ a.toNat)) (signedOverflow (a.toInt - b.toInt)) s) ∧
    exec (.cmn c sb rn rd op2) s =
      .next (tested sb (a + b) (decide (2 ^ 32 ≤ a.toNat + b.toNat)) (signedOverflow (a.toInt + b.toInt)) s)

/-- Data processing with Rd = R15: the PC, and with S = 1 the PSR (41_data_processing.md R124, 41_data_processing.md R125,
41_data_processing.md R120, 41_data_processing.md R119, 70_reset_and_hazards.md R500). That a compare with S = 0 changes
nothing is a derivation of the spec (U11, log 36); that only the four compares and tests put the next instruction under
the bank hazard is an inference that R500 marks as its own (log 12). -/
def Obligations.ResultToR15 : Prop :=
  ∀ (c : Cond) (rn : Reg) (op2 : Op2) (s : State), condPassed c s.psr = true →
    let a := regOrPc (aheadOf op2) 0 rn s
    let b := (evalOp2 op2 s).value
    let test (r : Word) : State :=
      let t := retire (advance { s with psr := writePsr r s.psr })
      if s.plat.cpu = .cpu010 ∧ (writePsr r s.psr).mode ≠ s.psr.mode then
        { t with hazard := .modeChange s.psr.mode t.free }
      else t
    (∀ sb : Bool,
      exec (.and c sb rn 15#4 op2) s = .next (wrotePc sb (a &&& b) s) ∧
      exec (.eor c sb rn 15#4 op2) s = .next (wrotePc sb (a ^^^ b) s) ∧
      exec (.orr c sb rn 15#4 op2) s = .next (wrotePc sb (a ||| b) s) ∧
      exec (.bic c sb rn 15#4 op2) s = .next (wrotePc sb (a &&& ~~~b) s) ∧
      exec (.mov c sb rn 15#4 op2) s = .next (wrotePc sb b s) ∧
      exec (.mvn c sb rn 15#4 op2) s = .next (wrotePc sb (~~~b) s) ∧
      exec (.add c sb rn 15#4 op2) s = .next (wrotePc sb (addWithCarry a b false).result s) ∧
      exec (.adc c sb rn 15#4 op2) s = .next (wrotePc sb (addWithCarry a b s.psr.c).result s) ∧
      exec (.sub c sb rn 15#4 op2) s = .next (wrotePc sb (addWithCarry a (~~~b) true).result s) ∧
      exec (.sbc c sb rn 15#4 op2) s = .next (wrotePc sb (addWithCarry a (~~~b) s.psr.c).result s) ∧
      exec (.rsb c sb rn 15#4 op2) s = .next (wrotePc sb (addWithCarry b (~~~a) true).result s) ∧
      exec (.rsc c sb rn 15#4 op2) s = .next (wrotePc sb (addWithCarry b (~~~a) s.psr.c).result s)) ∧
    exec (.tst c true rn 15#4 op2) s = .next (test (a &&& b)) ∧
    exec (.teq c true rn 15#4 op2) s = .next (test (a ^^^ b)) ∧
    exec (.cmp c true rn 15#4 op2) s = .next (test (addWithCarry a (~~~b) true).result) ∧
    exec (.cmn c true rn 15#4 op2) s = .next (test (addWithCarry a b false).result) ∧
    (∀ i, i = .tst c false rn 15#4 op2 ∨ i = .teq c false rn 15#4 op2 ∨ i = .cmp c false rn 15#4 op2 ∨
      i = .cmn c false rn 15#4 op2 → exec i s = .next (retire (advance s)))

/-- The barrel shifter with the amount in the instruction (41_data_processing.md R112, 30_encoding.md R77). -/
def Obligations.ShiftByConstant : Prop :=
  ∀ (amt : BitVec 5) (v : Word) (cin : Bool),
    let k := amt.toNat
    let k32 := if k = 0 then 32 else k
    let l := shiftImm .lsl amt v cin
    let r := shiftImm .lsr amt v cin
    let a := shiftImm .asr amt v cin
    let o := shiftImm .ror amt v cin
    (l.value.toNat = v.toNat * 2 ^ k % 2 ^ 32 ∧ l.carry = if k = 0 then cin else v.getLsbD (32 - k)) ∧
    (r.value.toNat = v.toNat / 2 ^ k32 ∧ r.carry = v.getLsbD (k32 - 1)) ∧
    (a.value.toInt = v.toInt / 2 ^ k32 ∧ a.carry = v.getLsbD (k32 - 1)) ∧
    (k ≠ 0 → (∀ i, i < 32 → o.value.getLsbD i = v.getLsbD ((i + k) % 32)) ∧ o.carry = v.getLsbD (k - 1)) ∧
    (k = 0 → o.value.toNat = cin.toNat * 2 ^ 31 + v.toNat / 2 ∧ o.carry = v.getLsbD 0)

/-- The barrel shifter with the amount in a register, for all 256 amounts (41_data_processing.md R113,
41_data_processing.md R114). -/
def Obligations.ShiftByRegister : Prop :=
  ∀ (amount : Byte) (v : Word) (cin : Bool),
    let n := amount.toNat
    let l := shiftReg .lsl amount v cin
    let r := shiftReg .lsr amount v cin
    let a := shiftReg .asr amount v cin
    let o := shiftReg .ror amount v cin
    (l.value.toNat = v.toNat * 2 ^ n % 2 ^ 32 ∧
      l.carry = if n = 0 then cin else decide (n ≤ 32) && v.getLsbD (32 - n)) ∧
    (r.value.toNat = v.toNat / 2 ^ n ∧ r.carry = if n = 0 then cin else v.getLsbD (n - 1)) ∧
    (a.value.toInt = v.toInt / 2 ^ n ∧ a.carry = if n = 0 then cin else v.getLsbD (min (n - 1) 31)) ∧
    ((∀ i, i < 32 → o.value.getLsbD i = v.getLsbD ((i + n) % 32)) ∧
      o.carry = if n = 0 then cin else v.getLsbD ((n - 1) % 32))

/-- The rotated immediate and its carry (30_encoding.md R78, 41_data_processing.md R116). The carry is the decision D15 of
the spec (log 36). -/
def Obligations.ImmediateOperand : Prop :=
  ∀ (rotate : BitVec 4) (imm8 : BitVec 8) (cin : Bool),
    let o := immOperand rotate imm8 cin
    (∀ i, i < 32 → o.value.getLsbD i = (imm8.setWidth 32).getLsbD ((i + 2 * rotate.toNat) % 32)) ∧
    o.carry = if rotate = 0#4 then cin else o.value.getLsbD 31

/-- Which physical register a number names in each mode, reading back, and the two bank hazards (10_state.md R22,
10_state.md R20, 70_reset_and_hazards.md R500, 70_reset_and_hazards.md R501). That every register field is under the
hazard is an inference (log 12, log 13). -/
def Obligations.RegisterBanks : Prop :=
  (∀ (m : Mode) (n : Reg), n ≠ 15#4 →
    (m = .firq ∧ 8 ≤ n.toNat → ∃ k : Fin 7, k.val + 8 = n.toNat ∧ phys m n = .fiq k) ∧
    (m = .irq ∧ 13 ≤ n.toNat → ∃ k : Fin 2, k.val + 13 = n.toNat ∧ phys m n = .irq k) ∧
    (m = .svc ∧ 13 ≤ n.toNat → ∃ k : Fin 2, k.val + 13 = n.toNat ∧ phys m n = .svc k) ∧
    (m = .user ∨ n.toNat < 8 ∨ (m ≠ .firq ∧ n.toNat < 13) → ∃ k : Fin 15, k.val = n.toNat ∧ phys m n = .usr k)) ∧
  (∀ (s : State) (a b : Reg) (v : Word) (i j : Nat), s.hazard = .none → a ≠ 15#4 → b ≠ 15#4 →
    readReg i b (writeReg j a v s) = if b = a then v else readReg i b s) ∧
  (∀ (s : State) (old : Mode) (d pos : Nat) (n : Reg) (v : Word), s.hazard = .modeChange old d → n ≠ 15#4 →
    let here := phys s.psr.mode n
    let there := phys old n
    (readReg pos n s = getPhys s.regs here ∨ readReg pos n s = getPhys s.regs there) ∧
    ((writeReg pos n v s).regs = setPhys s.regs here v ∨ (writeReg pos n v s).regs = setPhys s.regs there v) ∧
    (n.toNat < 8 → readReg pos n s = getPhys s.regs here ∧ (writeReg pos n v s).regs = setPhys s.regs here v)) ∧
  (∀ (s : State) (d pos : Nat) (n : Reg) (v : Word), s.hazard = .userBank d → n ≠ 15#4 →
    let here := phys s.psr.mode n
    (readReg pos n s = getPhys s.regs here ∨ readReg pos n s = getPhys s.regs (phys .user n)) ∧
    (writeReg pos n v s).regs = setPhys s.regs here v ∧
    (n.toNat < 8 → readReg pos n s = getPhys s.regs here))

/-- MUL and MLA: the next state, and the special cases of Rd (42_multiply.md R160, 42_multiply.md R161, 42_multiply.md
R162, 42_multiply.md R163, 42_multiply.md R164). Which bits are free with Rd = 15 is the decision D16 of the spec (log
15). -/
def Obligations.MultiplyResult : Prop :=
  ∀ (c : Cond) (sb : Bool) (rd rn rs rm : Reg) (s : State), condPassed c s.psr = true →
    let vm := regOrR15 12 1 rm s
    let vs := regOrPc 8 2 rs s
    let vn := regOrR15 8 0 rn s
    (rd ≠ 15#4 → rd ≠ rm →
      (∃ k f, exec (.mul c sb rd rn rs rm) s = .next { wrote sb rd (vm * vs) k s.psr.v s with free := f }) ∧
      (∃ k f, exec (.mla c sb rd rn rs rm) s = .next { wrote sb rd (vm * vs + vn) k s.psr.v s with free := f })) ∧
    (rd ≠ 15#4 → rd = rm →
      (∃ k f, exec (.mul c sb rd rn rs rm) s = .next { wrote sb rd 0#32 k s.psr.v s with free := f }) ∧
      (s.hazard = .none → ∃ r n z k f, exec (.mla c sb rd rn rs rm) s =
        .next { retire (advance { writeReg 3 rd r s with
          psr := if sb then s.psr.setFlags n z k s.psr.v else s.psr }) with free := f })) ∧
    (rd = 15#4 → ∀ i, i = .mul c sb rd rn rs rm ∨ i = .mla c sb rd rn rs rm →
      ∃ n z k v f, exec i s = .next { retire (advance { s with
        psr := if sb then s.psr.setFlags n z k v else s.psr }) with free := f })

/-- B goes to PC + 8 + 4 times the signed offset, modulo 2^26, and every word can be reached (R101). -/
def Obligations.BranchTarget : Prop :=
  (∀ (c : Cond) (off : BitVec 24) (s : State), condPassed c s.psr = true →
    (∃ t, exec (.b c off) s = .next t ∧
      (t.pc.toNat : Int) * 4 = ((s.pc.toNat : Int) * 4 + 8 + 4 * off.toInt) % 2 ^ 26 ∧
      t.regs = s.regs ∧ t.psr = s.psr ∧ t.mem = s.mem) ∧
    (∃ t, exec (.bl c off) s = .next t ∧
      (t.pc.toNat : Int) * 4 = ((s.pc.toNat : Int) * 4 + 8 + 4 * off.toInt) % 2 ^ 26)) ∧
  (∀ (s : State) (d : PcWord) (off : BitVec 24), condPassed .al s.psr = true →
    (off.toNat : Int) = (((d.toNat : Int) * 4 - (s.pc.toNat : Int) * 4 - 8) / 4) % 2 ^ 24 →
      ∃ t, exec (.b .al off) s = .next t ∧ t.pc = d)

/-- BL puts the old PSR and the address of the next instruction in R14 of the current bank (40_branch.md R102,
70_reset_and_hazards.md R500). That R14 goes to the bank of the new mode straight after a mode change is an inference (log
12). -/
def Obligations.BranchLink : Prop :=
  ∀ (c : Cond) (off : BitVec 24) (s : State), condPassed c s.psr = true →
    ∃ t, exec (.bl c off) s = .next t ∧
      (t.pc.toNat : Int) * 4 = ((s.pc.toNat : Int) * 4 + 8 + 4 * off.toInt) % 2 ^ 26 ∧
      (let r := getPhys t.regs (phys s.psr.mode 14#4)
       field r 2 24 = s.pc + 1 ∧ field r 0 2 = modeBits s.psr.mode ∧ bit r 31 = s.psr.n ∧ bit r 30 = s.psr.z ∧
       bit r 29 = s.psr.c ∧ bit r 28 = s.psr.v ∧ bit r 27 = s.psr.i ∧ bit r 26 = s.psr.f) ∧
      (∀ q, q ≠ phys s.psr.mode 14#4 → getPhys t.regs q = getPhys s.regs q) ∧
      t.psr = s.psr ∧ t.mem = s.mem

/-- SWI enters Supervisor mode at address 8 (46_swi.md R220, 46_swi.md R223, 60_exceptions.md R454). The case after an
accepted CDO is the decision D18 of the spec (log 14). -/
def Obligations.SoftwareInterrupt : Prop :=
  ∀ (c : Cond) (k : BitVec 24) (s : State), condPassed c s.psr = true →
    ∃ t, exec (.swi c k) s = .next t ∧
      t.pc = (if s.plat.cpu = .cpu010 ∧ s.afterCdo = true then 1#24 else 2#24) ∧
      t.psr = { s.psr with i := true, mode := .svc } ∧ getPhys t.regs (.svc 1) = packR15 s.psr (s.pc + 1) ∧
      (∀ q, q ≠ .svc 1 → getPhys t.regs q = getPhys s.regs q) ∧ t.mem = s.mem

/-- UND-A and UND-B, and on CPU-010 SWP and SWPB, take the undefined-instruction trap (48_undefined.md R250,
48_undefined.md R251, 60_exceptions.md R453). -/
def Obligations.UndefinedTrap : Prop :=
  ∀ (i : Instr) (s : State), condPassed i.cond s.psr = true →
    ((∃ c hi mid lo, i = .undA c hi mid lo) ∨ (∃ c hi lo, i = .undB c hi lo) ∨
      (s.plat.cpu = .cpu010 ∧ ∃ c rn rd rm, i = .swp c rn rd rm ∨ i = .swpb c rn rd rm)) →
    ∃ t, exec i s = .next t ∧ t.pc = 1#24 ∧ t.psr = { s.psr with i := true, mode := .svc } ∧
      getPhys t.regs (.svc 1) = packR15 s.psr (s.pc + 1) ∧
      (∀ q, q ≠ .svc 1 → getPhys t.regs q = getPhys s.regs q) ∧ t.mem = s.mem

/-- What taking each of the eight exceptions saves and where it goes (60_exceptions.md R450, 60_exceptions.md R451). -/
def Obligations.ExceptionEntry : Prop :=
  ∀ (e : Exc) (link : Word) (s : State),
    let t := enterWith e link s
    let vector : Nat := match e with
      | .reset => 0x0 | .undefined => 0x4 | .swi => 0x8 | .prefetchAbort => 0xC | .dataAbort => 0x10
      | .addressException => 0x14 | .irq => 0x18 | .firq => 0x1C
    let mode : Mode := match e with
      | .irq => .irq | .firq => .firq
      | .reset => .svc | .undefined => .svc | .swi => .svc | .prefetchAbort => .svc | .dataAbort => .svc
      | .addressException => .svc
    let ahead : PcWord := if e = .dataAbort ∨ e = .addressException then 2 else 1
    t.pc.toNat * 4 = vector ∧ t.psr.mode = mode ∧ t.psr.i = true ∧
    t.psr.f = (s.psr.f || decide (e = .reset ∨ e = .firq)) ∧
    t.psr.n = s.psr.n ∧ t.psr.z = s.psr.z ∧ t.psr.c = s.psr.c ∧ t.psr.v = s.psr.v ∧
    getPhys t.regs (phys mode 14#4) = link ∧
    (e ≠ .reset → raise e s = .next (enterWith e (packR15 s.psr (s.pc + ahead)) s)) ∧
    (∀ q, q ≠ phys mode 14#4 → getPhys t.regs q = getPhys s.regs q) ∧
    t.mem = s.mem ∧ t.cp15 = s.cp15 ∧ t.cache = s.cache ∧ t.memc = s.memc ∧ t.vidc = s.vidc ∧ t.ioc = s.ioc ∧
    t.coprocs = s.coprocs ∧ t.devices = s.devices ∧ t.pipe = []

/-- The return sequences give back the PC and the whole PSR (60_exceptions.md R466, 41_data_processing.md R125,
60_exceptions.md R451). -/
def Obligations.ExceptionReturn : Prop :=
  ∀ s : State,
    let back (e : Exc) (i : Instr) (pc : PcWord) : Prop :=
      ∃ t, exec i (enter e s) = .next t ∧ t.psr = s.psr ∧ t.pc = pc ∧ t.mem = s.mem ∧
        ∀ q, q ≠ phys e.mode 14#4 → getPhys t.regs q = getPhys s.regs q
    let movs : Instr := .mov .al true 0#4 15#4 (.shImm 0#5 .lsl 14#4)
    let subs4 : Instr := .sub .al true 14#4 15#4 (.imm 0#4 4#8)
    let subs8 : Instr := .sub .al true 14#4 15#4 (.imm 0#4 8#8)
    (∀ e, e = .undefined ∨ e = .swi → back e movs (s.pc + 1)) ∧
    (∀ e, e = .irq ∨ e = .firq ∨ e = .prefetchAbort → s.pc.toNat + 1 < 2 ^ 24 → back e subs4 s.pc) ∧
    (∀ e, e = .dataAbort ∨ e = .addressException → s.pc.toNat + 2 < 2 ^ 24 →
      back e subs8 s.pc ∧ back e subs4 (s.pc + 1))

/-- LDR and LDRB: the next state where the read is answered, on every platform (43_single_data_transfer.md R171,
43_single_data_transfer.md R175, 43_single_data_transfer.md R176, 43_single_data_transfer.md R178,
43_single_data_transfer.md R179). -/
def Obligations.LoadResult : Prop :=
  ∀ (c : Cond) (p u w : Bool) (rn rd : Reg) (off : Offset) (s t : State) (word : Word), condPassed c s.psr = true →
    let addr := singleAddress p u rn off s
    let modified := singleModified u rn off s
    illegalAddress addr = false → memRead (busAddress addr) (translateBit p w s) s = .done word t →
    let based := writeBackReg p w rn modified t
    let after (data : Word) : State :=
      if rd = 15#4 then retire (jump (pcBits data) based)
      else if writesBack p w = true ∧ rn = 15#4 then retire (jump (pcBits modified) (writeReg 3 rd data t))
      else retire (advance (writeReg 3 rd data based))
    exec (.ldr c p u w rn rd off) s = .next (after (loadRotate addr word)) ∧
    exec (.ldrb c p u w rn rd off) s = .next (after (loadByte addr word))

/-- STR and STRB: the next state where the write is answered, on every platform (43_single_data_transfer.md R171,
43_single_data_transfer.md R177, 43_single_data_transfer.md R186, 43_single_data_transfer.md R178). -/
def Obligations.StoreResult : Prop :=
  ∀ (c : Cond) (p u w : Bool) (rn rd : Reg) (off : Offset) (s t : State), condPassed c s.psr = true →
    let addr := singleAddress p u rn off s
    let modified := singleModified u rn off s
    let value := regOrR15 12 3 rd s
    illegalAddress addr = false →
    (memWrite (busAddress addr) .word value (translateBit p w s) s = .done () t →
      exec (.str c p u w rn rd off) s = .next (transferred p w rn modified t)) ∧
    (memWrite (busAddress addr) .byte (repeatByte value) (translateBit p w s) s = .done () t →
      exec (.strb c p u w rn rd off) s = .next (transferred p w rn modified t))

/-- Illegal addresses and aborts: where single and block transfers trap (60_exceptions.md R456, 60_exceptions.md R457,
43_single_data_transfer.md R180, 43_single_data_transfer.md R181, 44_block_data_transfer.md R202). That an LDM with S = 1
and without R15 writes its base back to the User bank is the decision D17 (log 19). -/
def Obligations.TransferTraps : Prop :=
  (∀ (c : Cond) (p u w : Bool) (rn rd : Reg) (off : Offset) (s t : State), condPassed c s.psr = true →
    let addr := singleAddress p u rn off s
    let value := regOrR15 12 3 rd s
    (illegalAddress addr = true →
      ∀ i, i = .ldr c p u w rn rd off ∨ i = .ldrb c p u w rn rd off ∨ i = .str c p u w rn rd off ∨
        i = .strb c p u w rn rd off → exec i s = .next (enter .addressException s)) ∧
    (illegalAddress addr = false →
      (memRead (busAddress addr) (translateBit p w s) s = .abort t →
        exec (.ldr c p u w rn rd off) s = .next (enter .dataAbort t) ∧
        exec (.ldrb c p u w rn rd off) s = .next (enter .dataAbort t)) ∧
      (memWrite (busAddress addr) .word value (translateBit p w s) s = .abort t →
        exec (.str c p u w rn rd off) s = .next (enter .dataAbort t)) ∧
      (memWrite (busAddress addr) .byte (repeatByte value) (translateBit p w s) s = .abort t →
        exec (.strb c p u w rn rd off) s = .next (enter .dataAbort t)))) ∧
  (∀ (c : Cond) (p u sb w : Bool) (rn : Reg) (list : BitVec 16) (s : State), condPassed c s.psr = true → list ≠ 0#16 →
    let base := regOrR15 8 0 rn s
    let final := blockFinal u list base
    let user := sb && s.psr.mode != .user
    illegalAddress (blockStart p u list base) = true →
      exec (.stm c p u sb w rn list) s = .next (enter .addressException (applyBase (blockBase user w rn final s) s)) ∧
      exec (.ldm c p u sb w rn list) s =
        .next (enter .addressException (applyBase (blockBase (user && !(bit list 15)) w rn final s) s)))

/-- LDR and LDRB from flat memory: which bytes arrive, and that nothing else changes (43_single_data_transfer.md R174,
43_single_data_transfer.md R176, 20_memory.md R45, 20_memory.md R55). The flat memory without MEMC is the decision D3 of
the spec (log 38). -/
def Obligations.LoadPlain : Prop :=
  ∀ (c : Cond) (p u w : Bool) (rn rd : Reg) (off : Offset) (s : State), condPassed c s.psr = true → s.cut = none →
    s.plat.hasMemc = false → cacheOn s = false → rd ≠ 15#4 → (writesBack p w = true → rn ≠ 15#4) →
    let addr := singleAddress p u rn off s
    let loc := (alignWord (busAddress addr)).toNat
    let lane := (field addr 0 2).toNat
    let dest := phys (writeBank 3 s) rd
    let based := writeBackReg p w rn (singleModified u rn off s) s
    let rest (t : State) : Prop := t.mem = s.mem ∧ t.psr = s.psr ∧ t.pc = s.pc + 1 ∧
      ∀ q, q ≠ dest → getPhys t.regs q = getPhys based.regs q
    illegalAddress addr = false →
    (∃ t, exec (.ldr c p u w rn rd off) s = .next t ∧ rest t ∧
      ∀ k, k < 4 → byteOfWord (getPhys t.regs dest) k = s.mem.read (loc + (k + lane) % 4)) ∧
    (∃ t, exec (.ldrb c p u w rn rd off) s = .next t ∧ rest t ∧
      getPhys t.regs dest = (s.mem.read (busAddress addr).toNat).setWidth 32)

/-- STR and STRB to flat memory: which bytes change, and that nothing else does (43_single_data_transfer.md R177,
43_single_data_transfer.md R186, 20_memory.md R45, 20_memory.md R47, 20_memory.md R55). The flat memory without MEMC is
the decision D3 of the spec (log 38), an unaligned word store D9 (log 34). -/
def Obligations.StorePlain : Prop :=
  ∀ (c : Cond) (p u w : Bool) (rn rd : Reg) (off : Offset) (s : State), condPassed c s.psr = true → s.cut = none →
    s.plat.hasMemc = false → Memory.wf s.mem = true → s.hazard = .none → (writesBack p w = true → rn ≠ 15#4) →
    let addr := singleAddress p u rn off s
    let loc := (alignWord (busAddress addr)).toNat
    let value := regOrR15 12 3 rd s
    let based := writeBackReg p w rn (singleModified u rn off s) s
    let rest (t : State) : Prop := t.regs = based.regs ∧ t.psr = s.psr ∧ t.pc = s.pc + 1
    illegalAddress addr = false →
    (∃ t, exec (.str c p u w rn rd off) s = .next t ∧ rest t ∧
      (∀ k, k < 4 → t.mem.read (loc + k) = byteOfWord value k) ∧
      (∀ a, a < loc ∨ loc + 4 ≤ a → t.mem.read a = s.mem.read a)) ∧
    (∃ t, exec (.strb c p u w rn rd off) s = .next t ∧ rest t ∧
      t.mem.read (busAddress addr).toNat = byteOfWord value 0 ∧
      (∀ a, a ≠ (busAddress addr).toNat → t.mem.read a = s.mem.read a))

/-- What LDR and LDRB leave unchanged on every platform (43_single_data_transfer.md R175, 43_single_data_transfer.md R176,
43_single_data_transfer.md R172, 43_single_data_transfer.md R180). -/
def Obligations.LoadFrame : Prop :=
  ∀ (c : Cond) (p u w : Bool) (rn rd : Reg) (off : Offset) (i : Instr) (s t : State), s.hazard = .none →
    i = .ldr c p u w rn rd off ∨ i = .ldrb c p u w rn rd off → exec i s = .next t →
    t.mem = s.mem ∧ (∀ a, t.mem.read a = s.mem.read a) ∧ t.cp15 = s.cp15 ∧ t.coprocs = s.coprocs ∧ t.plat = s.plat ∧
    (∀ q, getPhys t.regs q = getPhys s.regs q ∨ (rd ≠ 15#4 ∧ q = phys s.psr.mode rd) ∨
      (writesBack p w = true ∧ rn ≠ 15#4 ∧ q = phys s.psr.mode rn) ∨ (q = .svc 1 ∧ (t.pc = 4#24 ∨ t.pc = 5#24))) ∧
    (t.psr = s.psr ∨ (t.psr = { s.psr with i := true, mode := .svc } ∧ (t.pc = 4#24 ∨ t.pc = 5#24)))

/-- What STR and STRB leave unchanged on every platform (43_single_data_transfer.md R177, 43_single_data_transfer.md R186,
43_single_data_transfer.md R172, 20_memory.md R47, 51_memc.md R303). An unaligned word store writes the aligned word by
the decision D9 of the spec (log 34). -/
def Obligations.StoreFrame : Prop :=
  ∀ (c : Cond) (p u w : Bool) (rn rd : Reg) (off : Offset) (i : Instr) (size : Size) (s t : State),
    s.hazard = .none → s.cut = none → Memory.wf s.mem = true →
    (i = .str c p u w rn rd off ∧ size = .word) ∨ (i = .strb c p u w rn rd off ∧ size = .byte) → exec i s = .next t →
    let addr := singleAddress p u rn off s
    let lane := (field addr 0 2).toNat
    (match busTarget true (busAddress addr) (translateBit p w s) (takeBatch s) with
      | .done (.memory loc) _ =>
        ∀ a, (match size with
          | .word => a < loc ∨ loc + 4 ≤ a
          | .byte => a ≠ loc + lane) → t.mem.read a = s.mem.read a
      | .done .bootRam _ => True
      | _ => ∀ a, t.mem.read a = s.mem.read a) ∧
    t.cp15 = s.cp15 ∧ t.coprocs = s.coprocs ∧ t.plat = s.plat ∧
    (∀ q, getPhys t.regs q = getPhys s.regs q ∨
      (writesBack p w = true ∧ rn ≠ 15#4 ∧ q = phys s.psr.mode rn) ∨ (q = .svc 1 ∧ (t.pc = 4#24 ∨ t.pc = 5#24))) ∧
    (t.psr = s.psr ∨ (t.psr = { s.psr with i := true, mode := .svc } ∧ (t.pc = 4#24 ∨ t.pc = 5#24)))

/-- What the instructions without memory access leave unchanged (41_data_processing.md R111, 41_data_processing.md R119,
42_multiply.md R160, 40_branch.md R100, 47_coprocessor.md R234, 48_undefined.md R250). -/
def Obligations.RegisterFrame : Prop :=
  ∀ (i : Instr) (s t : State), accessesMemory i = false → exec i s = .next t →
    (t.mem = s.mem ∧ (∀ a, t.mem.read a = s.mem.read a) ∧ t.memc = s.memc ∧ t.vidc = s.vidc ∧ t.ioc = s.ioc ∧
      t.plat = s.plat ∧ t.inputs = s.inputs ∧ t.nirq = s.nirq ∧ t.nfirq = s.nfirq ∧ t.held = s.held) ∧
    ((∀ c opc crn rd cp aux crm, i ≠ .mcr c opc crn rd cp aux crm) → t.cp15 = s.cp15 ∧ t.cache = s.cache) ∧
    (s.hazard = .none → ∀ q, getPhys t.regs q = getPhys s.regs q ∨
      (∃ r, destination i = some r ∧ r ≠ 15#4 ∧ q = phys s.psr.mode r) ∨
      (q = .svc 1 ∧ t.psr.mode = .svc ∧ (t.pc = 1#24 ∨ t.pc = 2#24))) ∧
    (mayWritePsr i = false → t.psr = s.psr ∨
      (t.psr = { s.psr with i := true, mode := .svc } ∧ (t.pc = 1#24 ∨ t.pc = 2#24)))

/-- SWP and SWPB on CPU-020: the next state, and where they trap (45_swp.md R214, 45_swp.md R217, 45_swp.md R215,
45_swp.md R216, 45_swp.md R212). An unaligned word swap writes the aligned word by the decision D9 of the spec (log 34).
-/
def Obligations.SwapResult : Prop :=
  ∀ (c : Cond) (rn rd rm : Reg) (s t v : State) (word : Word), condPassed c s.psr = true → s.plat.cpu = .cpu020 →
    let addr := regOrR15 8 0 rn s
    let value := regOrR15 12 1 rm s
    let tr := modeTranslate s
    let after (data : Word) : State :=
      if rd = 15#4 then retire (jump (pcBits data) v) else retire (advance (writeReg 3 rd data v))
    let write (size : Size) (d : Word) : Bus Unit := memWrite (swapAddress size addr) size d tr t
    (illegalAddress addr = true →
      exec (.swp c rn rd rm) s = .next (enter .addressException s) ∧
      exec (.swpb c rn rd rm) s = .next (enter .addressException s)) ∧
    (illegalAddress addr = false →
      (extRead (busWord addr) tr s = .done word t →
        (write .word value = .done () v → exec (.swp c rn rd rm) s = .next (after (loadRotate addr word))) ∧
        (write .word value = .abort v → exec (.swp c rn rd rm) s = .next (enter .dataAbort v))) ∧
      (extRead (busAddress addr) tr s = .done word t →
        (write .byte (repeatByte value) = .done () v →
          exec (.swpb c rn rd rm) s = .next (after (loadByte addr word))) ∧
        (write .byte (repeatByte value) = .abort v → exec (.swpb c rn rd rm) s = .next (enter .dataAbort v))) ∧
      (extRead (busWord addr) tr s = .abort t → (write .word value = .done () v ∨ write .word value = .abort v) →
        exec (.swp c rn rd rm) s = .next (enter .dataAbort v)) ∧
      (extRead (busAddress addr) tr s = .abort t →
        (write .byte (repeatByte value) = .done () v ∨ write .byte (repeatByte value) = .abort v) →
        exec (.swpb c rn rd rm) s = .next (enter .dataAbort v)))

/-- SWP and SWPB in flat memory exchange a register with memory and touch nothing else (45_swp.md R214, 45_swp.md R217,
45_swp.md R212, 20_memory.md R55). The flat memory without MEMC is the decision D3 of the spec (log 38), an unaligned word
store D9 (log 34). -/
def Obligations.SwapPlain : Prop :=
  ∀ (c : Cond) (rn rd rm : Reg) (s : State), condPassed c s.psr = true → s.cut = none → s.plat.cpu = .cpu020 →
    s.plat.hasMemc = false → Memory.wf s.mem = true → s.hazard = .none → rd ≠ 15#4 →
    let addr := regOrR15 8 0 rn s
    let loc := (alignWord (busAddress addr)).toNat
    let value := regOrR15 12 1 rm s
    let dest := phys s.psr.mode rd
    let rest (t : State) : Prop := t.psr = s.psr ∧ t.pc = s.pc + 1 ∧
      ∀ q, q ≠ dest → getPhys t.regs q = getPhys s.regs q
    illegalAddress addr = false →
    (∃ t, exec (.swp c rn rd rm) s = .next t ∧ rest t ∧
      getPhys t.regs dest = loadRotate addr (s.mem.readWord loc) ∧ t.mem.readWord loc = value ∧
      (∀ a, a < loc ∨ loc + 4 ≤ a → t.mem.read a = s.mem.read a)) ∧
    (∃ t, exec (.swpb c rn rd rm) s = .next t ∧ rest t ∧
      getPhys t.regs dest = (s.mem.read (busAddress addr).toNat).setWidth 32 ∧
      t.mem.read (busAddress addr).toNat = byteOfWord value 0 ∧
      (∀ a, a ≠ (busAddress addr).toNat → t.mem.read a = s.mem.read a))

/-- The registers and addresses of LDM and STM (44_block_data_transfer.md R191, 44_block_data_transfer.md R193). That base
bits 1:0 pass through is the decision D10 of the spec (log 18). -/
def Obligations.BlockAddresses : Prop :=
  ∀ (list : BitVec 16) (base : Word),
    let regs := listedRegs list
    let n : Word := BitVec.ofNat 32 (4 * regs.length)
    (∀ r : Reg, r ∈ regs ↔ list.getLsbD r.toNat = true) ∧
    List.Pairwise (fun a b : Reg => a.toNat < b.toNat) regs ∧
    regs.length = (List.range 16).countP (fun k => list.getLsbD k) ∧
    blockStart false true list base = base ∧ blockStart true true list base = base + 4#32 ∧
    blockStart false false list base = base - n + 4#32 ∧ blockStart true false list base = base - n ∧
    blockFinal true list base = base + n ∧ blockFinal false list base = base - n

/-- STM and LDM: the next state where every access is answered, on every platform (44_block_data_transfer.md R200,
44_block_data_transfer.md R201, 44_block_data_transfer.md R198). That base bits 1:0 pass through is the decision D10 (log
18), the write-back of a User-bank LDM D17 (log 19). -/
def Obligations.BlockResult : Prop :=
  ∀ (c : Cond) (p u sb w : Bool) (rn : Reg) (list : BitVec 16) (s t : State), condPassed c s.psr = true → list ≠ 0#16 →
    let base := regOrR15 8 0 rn s
    let start := blockStart p u list base
    let final := blockFinal u list base
    let regs := listedRegs list
    illegalAddress start = false →
    (let user := sb && s.psr.mode != .user
     let stores := storeWords (modeTranslate s) user regs (blockBase user w rn final s) 0 (busWord start) s
     (stores = .done false t → exec (.stm c p u sb w rn list) s = .next (retire (advance t))) ∧
     (stores = .done true t → exec (.stm c p u sb w rn list) s = .next (enter .dataAbort t))) ∧
    (let user := sb && s.psr.mode != .user && !(bit list 15)
     let based := applyBase (blockBase user w rn final s) s
     (∀ ws : List Word, ws.length = regs.length →
       loadWords (modeTranslate s) regs (busWord start) based = .done (ws.map some) t →
       let v := writeLoaded user (regs.zip ws) 0 t
       let last := ws.getLast?.getD 0#32
       exec (.ldm c p u sb w rn list) s = .next
         (if bit list 15 then wrotePc sb last v
          else if user then { retire (advance v) with hazard := .userBank (retire (advance v)).free }
          else retire (advance v))) ∧
     (∀ (good : List Word) (rest : List (Option Word)),
       loadWords (modeTranslate s) regs (busWord start) based = .done (good.map some ++ none :: rest) t →
       let kept := good.take (good.length - 1)
       let v := writeLoaded user (regs.zip kept) 0 t
       let bank := phys (if user then .user else writeBank 4 s) rn
       let restored := if rn ≠ 15#4 ∧ rn ∈ regs.take kept.length then
           { v with regs := setPhys v.regs bank (if w then final else base) }
         else v
       exec (.ldm c p u sb w rn list) s = .next (enter .dataAbort restored)))

/-- STM to flat memory: every stored word, and that nothing else changes (44_block_data_transfer.md R191,
44_block_data_transfer.md R195, 44_block_data_transfer.md R196, 44_block_data_transfer.md R200, 20_memory.md R55). The
flat memory is the decision D3 of the spec (log 38), unaligned bases D10 (log 18). -/
def Obligations.StmPlain : Prop :=
  ∀ (c : Cond) (p u sb w : Bool) (rn : Reg) (list : BitVec 16) (s : State), condPassed c s.psr = true → s.cut = none → list ≠ 0#16 →
    s.plat.hasMemc = false → Memory.wf s.mem = true → s.hazard = .none →
    let base := regOrR15 8 0 rn s
    let start := blockStart p u list base
    let regs := listedRegs list
    let loc := (alignWord (busAddress start)).toNat
    let user := sb && s.psr.mode != .user
    let based := applyBase (blockBase user w rn (blockFinal u list base) s) s
    illegalAddress start = false → loc + 4 * regs.length ≤ 2 ^ 26 →
    ∃ t, exec (.stm c p u sb w rn list) s = .next t ∧ t.regs = based.regs ∧ t.psr = s.psr ∧ t.pc = s.pc + 1 ∧
      (∀ k r, regs[k]? = some r →
        t.mem.readWord (loc + 4 * k) = storedReg user k r (if k = 0 then s else based)) ∧
      (∀ a, a < loc ∨ loc + 4 * regs.length ≤ a → t.mem.read a = s.mem.read a)

/-- LDM from flat memory: every loaded register, R15 and the PSR, and that nothing else changes (44_block_data_transfer.md
R191, 44_block_data_transfer.md R197, 44_block_data_transfer.md R198, 44_block_data_transfer.md R201, 20_memory.md R55).
The flat memory is the decision D3 of the spec (log 38), unaligned bases D10 (log 18), the User-bank write-back D17 (log
19). -/
def Obligations.LdmPlain : Prop :=
  ∀ (c : Cond) (p u sb w : Bool) (rn : Reg) (list : BitVec 16) (s : State), condPassed c s.psr = true → s.cut = none → list ≠ 0#16 →
    s.plat.hasMemc = false → cacheOn s = false → s.hazard = .none →
    let base := regOrR15 8 0 rn s
    let start := blockStart p u list base
    let regs := listedRegs list
    let loc := (alignWord (busAddress start)).toNat
    let user := sb && s.psr.mode != .user && !(bit list 15)
    let bank := if user then Mode.user else s.psr.mode
    let word (k : Nat) : Word := s.mem.readWord (loc + 4 * k)
    let last := word (regs.length - 1)
    let based := applyBase (blockBase user w rn (blockFinal u list base) s) s
    illegalAddress start = false → loc + 4 * regs.length ≤ 2 ^ 26 →
    ∃ t, exec (.ldm c p u sb w rn list) s = .next t ∧ t.mem = s.mem ∧
      t.pc = (if bit list 15 then pcBits last else s.pc + 1) ∧
      t.psr = (if sb = true ∧ bit list 15 = true then writePsr last s.psr else s.psr) ∧
      (if user then ∃ d, t.hazard = .userBank d else t.hazard = .none) ∧
      (∀ k r, regs[k]? = some r → r ≠ 15#4 → getPhys t.regs (phys bank r) = word k) ∧
      (∀ q, (∀ r, r ∈ regs → r ≠ 15#4 → q ≠ phys bank r) → getPhys t.regs q = getPhys based.regs q)

/-- The stops the spec names: unallocated multiplies, empty lists, undescribed coprocessor 15 accesses (30_encoding.md
R90, 44_block_data_transfer.md R203, 50_cache_cp15.md R279). That the model refuses is the treatment of the spec: D14 (log
16), U15 (log 17), U20 to U22 (log 22), with a bad field before a bad register by inference (log 22). -/
def Obligations.SpecRefusals : Prop :=
  (∀ (c : Cond) (hi : BitVec 16) (mid : BitVec 2) (lo : BitVec 4) (s : State), condPassed c s.psr = true →
    exec (.mulSpace c hi mid lo) s = .refused .unallocatedMultiply) ∧
  (∀ (c : Cond) (p u sb w : Bool) (rn : Reg) (s : State), condPassed c s.psr = true →
    exec (.ldm c p u sb w rn 0#16) s = .refused .emptyRegisterList ∧
    exec (.stm c p u sb w rn 0#16) s = .refused .emptyRegisterList) ∧
  (∀ (c : Cond) (opc : BitVec 3) (crn rd : Reg) (aux : BitVec 3) (crm : Reg) (s : State), condPassed c s.psr = true →
    s.plat.cpu = .cpu020 → s.psr.mode ≠ .user →
    let mcr := exec (.mcr c opc crn rd 15#4 aux crm) s
    let mrc := exec (.mrc c opc crn rd 15#4 aux crm) s
    let plain := opc = 0#3 ∧ aux = 0#3 ∧ crm = 0#4
    (¬ plain → mcr = .refused .cp15Field ∧ mrc = .refused .cp15Field) ∧
    (plain → 6 ≤ crn.toNat → mcr = .refused .cp15Register ∧ mrc = .refused .cp15Register) ∧
    (plain → (crn = 0#4 → mcr = .refused .cp15Direction) ∧ (crn = 1#4 → mrc = .refused .cp15Direction)))

/-- An absent coprocessor traps, a busy one makes no progress, coprocessor 15 refuses what it does not offer
(47_coprocessor.md R226, 47_coprocessor.md R227, 47_coprocessor.md R246, 50_cache_cp15.md R271). Coprocessors are scripts
by the choice of the model (log 21), the interruptible wait is the decision D19 (log 20), the mode tested for coprocessor
15 is that of the execution by the decision D26 (log 22). -/
def Obligations.CoprocAbsentOrBusy : Prop :=
  (∀ (i : Instr) (cp : Reg) (s : State), coprocessorOf i = some cp → condPassed i.cond s.psr = true →
    isInternal cp s = false →
    ((∀ d, d ∈ s.coprocs → d.num ≠ cp) → exec i s = .next (enter .undefined s)) ∧
    (∀ t, offer cp (encode i) s = (.absent, t) → exec i s = .next (enter .undefined t)) ∧
    (∀ t, offer cp (encode i) s = (.busy, t) →
      ∃ v, exec i s = .next v ∧ v.pc = s.pc ∧ v.regs = s.regs ∧ v.psr = s.psr ∧ v.mem = s.mem)) ∧
  (∀ (i : Instr) (s : State), coprocessorOf i = some 15#4 → condPassed i.cond s.psr = true → s.plat.cpu = .cpu020 →
    (s.psr.mode = .user ∨ (∃ c opc crn crd aux crm, i = .cdo c opc crn crd 15#4 aux crm) ∨
      (∃ c p u n w rn crd off, i = .ldc c p u n w rn crd 15#4 off ∨ i = .stc c p u n w rn crd 15#4 off)) →
    exec i s = .next (enter .undefined s))

/-- CDO, MCR and MRC accepted by an external coprocessor: the next state (47_coprocessor.md R228, 47_coprocessor.md R234,
47_coprocessor.md R235, 47_coprocessor.md R236, 47_coprocessor.md R237). Coprocessors are scripts by the choice of the
model (log 21). -/
def Obligations.CoprocReady : Prop :=
  ∀ (c : Cond) (crn rd cp : Reg) (aux : BitVec 3) (crm : Reg) (s t : State), condPassed c s.psr = true →
    isInternal cp s = false →
    (∀ opc : BitVec 4, let i : Instr := .cdo c opc crn rd cp aux crm
      offer cp (encode i) s = (.ready, t) →
      exec i s = .next { retire (advance (recordEvent cp (.dataop (encode i)) t)) with
        afterCdo := s.plat.cpu == .cpu010 }) ∧
    (∀ opc : BitVec 3, let i : Instr := .mcr c opc crn rd cp aux crm
      offer cp (encode i) s = (.ready, t) →
      exec i s = .next (retire (advance (recordEvent cp (.fromCpu (encode i) (regOrR15 12 3 rd s)) t)))) ∧
    (∀ opc : BitVec 3, let i : Instr := .mrc c opc crn rd cp aux crm
      ∀ (v : Word) (x : State), offer cp (encode i) s = (.ready, t) → takeSupply cp t = (v, x) →
      let told := recordEvent cp (.toCpu (encode i) v) x
      exec i s = .next (if rd = 15#4 then
          retire (advance { told with psr := s.psr.setFlags (bit v 31) (bit v 30) (bit v 29) (bit v 28) })
        else retire (advance (writeReg 3 rd v told))))

/-- LDC and STC accepted by an external coprocessor: the next state, on every platform (47_coprocessor.md R229,
47_coprocessor.md R230, 47_coprocessor.md R232, 47_coprocessor.md R233, 47_coprocessor.md R238, 47_coprocessor.md R239).
Coprocessors are scripts by the choice of the model (log 21), aborts and write-back are the decisions D22 to D25 of the
spec (log 20), unaligned bases D10 (log 18). -/
def Obligations.CoprocTransfers : Prop :=
  ∀ (c : Cond) (p u n w : Bool) (rn crd cp : Reg) (off : BitVec 8) (s t t1 t2 : State) (len : Nat) (aborted : Bool),
    condPassed c s.psr = true → isInternal cp s = false →
    let ldc : Instr := .ldc c p u n w rn crd cp off
    let stc : Instr := .stc c p u n w rn crd cp off
    let addr := coprocAddress p u rn off s
    let modified := coprocModified u rn off s
    let tr := translateBit p w s
    let ends (v : State) : State :=
      if aborted then enter .dataAbort (writeBackReg p w rn modified v) else transferred p w rn modified v
    (∀ i, i = ldc ∨ i = stc → offer cp (encode i) s = (.ready, t) → illegalAddress addr = true →
      exec i s = .next (enter .addressException (writeBackReg p w rn modified t))) ∧
    (illegalAddress addr = false → takeLength cp t = (len, t1) →
      (offer cp (encode ldc) s = (.ready, t) →
        coprocLoad cp (encode ldc) tr len 0 (busWord addr) t1 = .done aborted t2 →
        ∀ v, extraRead tr (busWord addr + BitVec.ofNat 26 (4 * (len + 1))) t2 = .done () v →
          exec ldc s = .next (ends v)) ∧
      (offer cp (encode stc) s = (.ready, t) →
        coprocStore cp (encode stc) tr len 0 (busWord addr) t1 = .done aborted t2 →
          exec stc s = .next (ends t2)))

/-- One-word LDC and STC with flat memory: what the coprocessor gets and which bytes change (47_coprocessor.md R232,
47_coprocessor.md R233, 20_memory.md R55). Coprocessors are scripts by the choice of the model (log 21), the flat memory
is the decision D3 (log 38), the access at the aligned address of an unaligned base D10 (log 18). -/
def Obligations.CoprocTransferPlain : Prop :=
  ∀ (c : Cond) (p u n w : Bool) (rn crd cp : Reg) (off : BitVec 8) (s : State) (d : Coproc) (v : Word),
    condPassed c s.psr = true → s.cut = none → isInternal cp s = false → s.plat.hasMemc = false → Memory.wf s.mem = true →
    s.coprocs.find? (fun x => x.num = cp) = some d → d.answers.head? = some .ready → d.lengths = [] →
    let ldc : Instr := .ldc c p u n w rn crd cp off
    let stc : Instr := .stc c p u n w rn crd cp off
    let addr := coprocAddress p u rn off s
    let loc := (alignWord (busAddress addr)).toNat
    illegalAddress addr = false →
    (d.supply.head? = some v →
      ∃ t, exec stc s = .next t ∧ t.mem.readWord loc = v ∧
        (∀ a, a < loc ∨ loc + 4 ≤ a → t.mem.read a = s.mem.read a) ∧ t.psr = s.psr) ∧
    (cacheOn s = false →
      ∃ t e, exec ldc s = .next t ∧ t.mem = s.mem ∧ t.psr = s.psr ∧ t.coprocs.find? (fun x => x.num = cp) = some e ∧
        e.log = d.log ++ [.offer (encode ldc) (offeredPriv s), .load (encode ldc) 0 (some (s.mem.readWord loc))])

/-- The registers of coprocessor 15 outside User mode (50_cache_cp15.md R272, 50_cache_cp15.md R273, 50_cache_cp15.md
R274, 50_cache_cp15.md R275, 50_cache_cp15.md R276, 50_cache_cp15.md R278, 47_coprocessor.md R237). That the unused bits
of register 2 read 0 is an inference (log 22), the mode tested is the decision D26 (log 22). -/
def Obligations.Cp15Transfers : Prop :=
  ∀ (c : Cond) (rd : Reg) (s : State), condPassed c s.psr = true → s.plat.cpu = .cpu020 → s.psr.mode ≠ .user →
    let v := regOrR15 12 3 rd s
    let mcr (crn : Reg) : Out := exec (.mcr c 0#3 crn rd 15#4 0#3 0#4) s
    let mrc (crn : Reg) : Out := exec (.mrc c 0#3 crn rd 15#4 0#3 0#4) s
    let got (x : Word) : Out :=
      .next (retire (advance (if rd = 15#4 then
          { s with psr := s.psr.setFlags (bit x 31) (bit x 30) (bit x 29) (bit x 28) }
        else writeReg 3 rd x s)))
    mrc 0#4 = got 0x41560300#32 ∧ mrc 2#4 = got (s.cp15.r2.setWidth 32) ∧ mrc 3#4 = got s.cp15.r3 ∧
    mrc 4#4 = got s.cp15.r4 ∧ mrc 5#4 = got s.cp15.r5 ∧
    mcr 1#4 = .next (retire (advance { s with cache := [] })) ∧
    mcr 2#4 = .next (retire (advance { s with cp15 := { s.cp15 with r2 := field v 0 3 } })) ∧
    mcr 3#4 = .next (retire (advance { s with cp15 := { s.cp15 with r3 := v } })) ∧
    mcr 4#4 = .next (retire (advance { s with cp15 := { s.cp15 with r4 := v } })) ∧
    mcr 5#4 = .next (retire (advance { s with cp15 := { s.cp15 with r5 := v } }))

/-- Translation and protection of logically mapped RAM (51_memc.md R314, 51_memc.md R305, 51_memc.md R307, 51_memc.md
R312). -/
def Obligations.MemcTranslation : Prop :=
  ∀ (write : Bool) (a : Addr) (trans : Bool) (s : State), s.plat.hasMemc = true → s.memc.boot = .normal →
    a.toNat < 0x2000000 → s.memc.pageSize = s.plat.ram.pageCode →
    let size := 4096 * 2 ^ s.memc.pageSize.toNat
    (∀ i : Fin 128, (∀ j : Fin 128, s.memc.entries[j].lpn.toNat = a.toNat / size ↔ j = i) →
      let ppl := s.memc.entries[i].ppl.toNat
      let allowed : Prop :=
        trans = false ∨ (s.memc.osMode = true ∧ (write = false ∨ ppl < 2)) ∨
          (s.memc.osMode = false ∧ (ppl = 0 ∨ (ppl = 1 ∧ write = false)))
      (allowed → busTarget write a trans s =
        .done (.memory (0x2000000 + (i.val * size + (alignWord a).toNat % size) % s.plat.ram.bytes)) s) ∧
      (¬ allowed → busTarget write a trans s = .abort s)) ∧
    ((∀ j : Fin 128, s.memc.entries[j].lpn.toNat ≠ a.toNat / size) → busTarget write a trans s = .abort s)

/-- Behind MEMC no User-mode instruction changes MEMC, VIDC or IOC (51_memc.md R303, 51_memc.md R305, 51_memc.md R340). -/
def Obligations.UserModeCannotTouchDevices : Prop :=
  ∀ (i : Instr) (s t : State), s.plat.hasMemc = true → s.memc.boot = .normal → s.psr.mode = .user →
    exec i s = .next t →
    (t.memc.pageSize = s.memc.pageSize ∧ t.memc.lowRom = s.memc.lowRom ∧ t.memc.highRom = s.memc.highRom ∧
      t.memc.refresh = s.memc.refresh ∧ t.memc.videoDma = s.memc.videoDma ∧ t.memc.soundDma = s.memc.soundDma ∧
      t.memc.osMode = s.memc.osMode ∧ t.memc.testMode = s.memc.testMode ∧ t.memc.entries = s.memc.entries ∧
      t.memc.vinit = s.memc.vinit ∧ t.memc.vstart = s.memc.vstart ∧ t.memc.vend = s.memc.vend ∧
      t.memc.cinit = s.memc.cinit ∧ t.memc.sstart = s.memc.sstart ∧ t.memc.boot = .normal) ∧
    (t.vidc.palette = s.vidc.palette ∧ t.vidc.border = s.vidc.border ∧ t.vidc.cursor = s.vidc.cursor ∧
      t.vidc.stereo = s.vidc.stereo ∧ t.vidc.horiz = s.vidc.horiz ∧ t.vidc.hcsr = s.vidc.hcsr ∧
      t.vidc.vert = s.vidc.vert ∧ t.vidc.sfr = s.vidc.sfr ∧ t.vidc.cr = s.vidc.cr ∧ t.vidc.written = s.vidc.written) ∧
    (t.ioc.ctrl = s.ioc.ctrl ∧ t.ioc.wild = s.ioc.wild ∧ t.ioc.maskA = s.ioc.maskA ∧ t.ioc.maskB = s.ioc.maskB ∧
      t.ioc.maskF = s.ioc.maskF ∧ ∀ n : Fin 4, t.ioc.timers[n].inLatch = s.ioc.timers[n].inLatch ∧
        t.ioc.timers[n].outLatch = s.ioc.timers[n].outLatch) ∧
    t.held = s.held ∧ t.devices = s.devices ∧
    (s.midEvents = [] → t.memc = s.memc ∧ t.vidc = s.vidc ∧ (separate t).ioc = (separate s).ioc)

/-- MEMC boot states read ROM; control and DMA register writes take their value from the address (51_memc.md R308,
51_memc.md R309, 51_memc.md R310, 51_memc.md R317, 51_memc.md R320, 51_memc.md R332). The boot reads are the decision D28
(log 24), the field positions are marked by the spec as general knowledge (log 25), test mode holds the clocks by the
treatment U34 (log 26). -/
def Obligations.MemcBootAndControl : Prop :=
  (∀ (a : Addr) (trans : Bool) (s : State), s.plat.hasMemc = true → bootNext a s.memc.boot ≠ .normal →
    busTarget false a trans s =
      .done (.memory (0x3800000 + (alignWord a).toNat % 0x800000 % s.plat.romHighLen)) (bootStep a s)) ∧
  (∀ a : Addr, bootNext a .boot0 = (if a.toNat < 0x1000000 then .boot1 else .boot0) ∧
    bootNext a .boot1 = (if 0x2000000 ≤ a.toNat then .normal else .boot1) ∧ bootNext a .normal = .normal) ∧
  (∀ (a : Addr) (s : State), field a 17 3 = 7#3 →
    let written (entries : Vector PageEntry 128) (f : Nat) : State := { s with
      free := f
      memc := { s.memc with
        pageSize := field a 2 2, entries := entries, lowRom := field a 4 2, highRom := field a 6 2
        refresh := field a 8 2, videoDma := bit a 10, soundDma := bit a 11, osMode := bit a 12, testMode := bit a 13 } }
    let out (t : State) : Bus Unit :=
      if bit a 13 then .held { t with held := some .memcTestMode } else .done () t
    (field a 2 2 = s.memc.pageSize → writeMemcRegister a s = out (written s.memc.entries s.free)) ∧
    (field a 2 2 ≠ s.memc.pageSize → ∃ (e : Vector PageEntry 128) (f : Nat),
      (∀ k : Fin 128, (e[k].lpn).toNat < 2 ^ (13 - (field a 2 2).toNat)) ∧ writeMemcRegister a s = out (written e f))) ∧
  (∀ (a : Addr) (s : State),
    let v : BitVec 15 := field a 2 15
    let m := s.memc
    let put (x : Memc) : Bus Unit := .done () { s with memc := x }
    (field a 17 3 = 0#3 → writeMemcRegister a s = put { m with vinit := v }) ∧
    (field a 17 3 = 1#3 → writeMemcRegister a s = put { m with vstart := v }) ∧
    (field a 17 3 = 2#3 → writeMemcRegister a s = put { m with vend := v }) ∧
    (field a 17 3 = 3#3 → writeMemcRegister a s = put { m with cinit := v }) ∧
    (field a 17 3 = 4#3 → writeMemcRegister a s = put { m with sstart := v, nextValid := true }) ∧
    (field a 17 3 = 5#3 → writeMemcRegister a s = put { m with sendN := v }) ∧
    (field a 17 3 = 6#3 → writeMemcRegister a s =
      put { m with sptr := m.sstart, sendC := m.sendN, sendN := m.sendC, nextValid := false }))

/-- A translator write sets the one entry its address names (51_memc.md R315, 51_memc.md R314). The row for 16-Kbyte pages
is marked by the spec as general knowledge (log 25), refusing A7 = 1 is the treatment U32 under D5 (log 27). -/
def Obligations.TranslatorWrite : Prop :=
  (∀ (lpn : BitVec 13) (ppl : BitVec 2) (ppn : BitVec 7) (s : State), s.memc.pageSize = 0#2 →
    let a : Addr := 7#3 ++ field lpn 0 11 ++ field lpn 11 2 ++ ppl ++ 0#1 ++ ppn
    ∃ t, writeTranslator a s = .done () t ∧ t.mem = s.mem ∧
      ∀ j : Fin 128, t.memc.entries[j] = if j.val = ppn.toNat then ⟨lpn, ppl⟩ else s.memc.entries[j]) ∧
  (∀ (a : Addr) (s : State), bit a 7 = false →
    let num (bits : List Nat) : Nat := bits.foldl (fun x k => 2 * x + if a.getLsbD k then 1 else 0) 0
    let row : List Nat × List Nat :=
      match s.memc.pageSize with
      | 0#2 => ([6, 5, 4, 3, 2, 1, 0], [11, 10, 22, 21, 20, 19, 18, 17, 16, 15, 14, 13, 12])
      | 1#2 => ([0, 6, 5, 4, 3, 2, 1], [11, 10, 22, 21, 20, 19, 18, 17, 16, 15, 14, 13])
      | 2#2 => ([1, 0, 6, 5, 4, 3, 2], [11, 10, 22, 21, 20, 19, 18, 17, 16, 15, 14])
      | 3#2 => ([1, 2, 0, 6, 5, 4, 3], [11, 10, 22, 21, 20, 19, 18, 17, 16, 15])
    ∃ t, writeTranslator a s = .done () t ∧ t.mem = s.mem ∧
      ∀ j : Fin 128, t.memc.entries[j] =
        if j.val = num row.1 then ⟨BitVec.ofNat 13 (num row.2), field a 8 2⟩ else s.memc.entries[j]) ∧
  (∀ (size : BitVec 2) (a b : Addr), translatorPpn size a = translatorPpn size b ↔ field a 0 7 = field b 0 7) ∧
  (∀ (a : Addr) (s : State), bit a 7 = true → writeTranslator a s = .refused .translatorA7)

/-- Video, cursor and sound DMA and refresh: which goes first, the words moved and the pointers after (51_memc.md R321,
51_memc.md R322, 51_memc.md R325, 51_memc.md R326, 51_memc.md R329, 51_memc.md R313, 51_memc.md R335, 52_vidc.md R386).
The ends of the buffers are the decision D29 of the spec (log 28), overflow is the choice of the model (log 28), that
bursts and refreshes are events that happen only in their turn is the form of the model (log 28), that the sync pulse of
the odd field ends in the dummy raster and counts it whole its choice (log 29). -/
def Obligations.DmaTransfers : Prop :=
  (∀ s : State, s.plat.hasMemc = true → s.plat.hasVidc = true →
    s.memc.testMode = false → s.memc.pageSize = s.plat.ram.pageCode →
    let m := s.memc
    let words (p : BitVec 15) : List Word :=
      [0, 4, 8, 12].map fun k => s.mem.readWord (0x2000000 + (p.toNat * 16 + k) % s.plat.ram.bytes)
    let inSync : Prop := s.vidc.programmed = true ∧ (s.vidc.dummyRow = true ∨ s.vidc.vcount.toNat ≤ s.vidc.vswr.toNat)
    let quiet : Prop := m.videoDma = false ∨ inSync ∨ (s.vidc.videoWanted = 0#2 ∧ s.vidc.cursorWanted = false)
    (m.videoDma = true → ¬ inSync → s.vidc.videoWanted ≠ 0#2 → m.cursorNext = false →
      videoDma s = { s with
        vidc := { s.vidc with
          videoFifo := fifoPush 8 s.vidc.videoFifo (words m.vptr), videoWanted := s.vidc.videoWanted - 1#2 }
        memc := { m with
          vptr := if m.vptr = m.vend then m.vstart else m.vptr + 1, cursorNext := s.vidc.hsync } }) ∧
    (m.videoDma = true → ¬ inSync → s.vidc.cursorWanted = true → m.cursorNext = true →
      cursorDma s = { s with
        vidc := { s.vidc with cursorFifo := fifoPush 4 s.vidc.cursorFifo (words m.cptr), cursorWanted := false }
        memc := { m with cptr := m.cptr + 1, cursorNext := s.vidc.hsync } }) ∧
    (quiet ∨ m.cursorNext = true → videoDma s = s) ∧
    (quiet ∨ m.cursorNext = false → cursorDma s = s) ∧
    (m.soundDma = true → s.vidc.soundWanted = true → quiet →
      soundDma s = { s with
        vidc := { s.vidc with soundFifo := fifoPush 4 s.vidc.soundFifo (words m.sptr), soundWanted := false }
        memc := if m.sptr ≠ m.sendC then { m with sptr := m.sptr + 1 }
          else if m.nextValid = true then
            { m with sptr := m.sstart, sendC := m.sendN, sendN := m.sendC, nextValid := false }
          else { m with sptr := m.sstart } }) ∧
    (m.soundDma = false ∨ s.vidc.soundWanted = false ∨ ¬ quiet → soundDma s = s) ∧
    (quiet → (m.soundDma = false ∨ s.vidc.soundWanted = false) →
      (m.refresh = 3#2 ∨ (m.refresh = 1#2 ∧ s.vidc.flbk = true)) →
      refreshTick s = { s with memc := { m with vptr := m.vptr + 1 } }) ∧
    (¬ quiet ∨ (m.soundDma = true ∧ s.vidc.soundWanted = true) ∨
      ¬ (m.refresh = 3#2 ∨ (m.refresh = 1#2 ∧ s.vidc.flbk = true)) → refreshTick s = s)) ∧
  (∀ before s : State, (before.vidc.videoWanted = 0#2 ∧ before.vidc.cursorWanted = false) →
    (s.vidc.videoWanted ≠ 0#2 ∨ s.vidc.cursorWanted = true) →
    ¬ (s.vidc.programmed = true ∧ (s.vidc.dummyRow = true ∨ s.vidc.vcount.toNat ≤ s.vidc.vswr.toNat)) →
    chooseBurst before s = { s with memc := { s.memc with cursorNext := s.vidc.hsync } })

/-- VIDC register writes (52_vidc.md R350, 52_vidc.md R351, 52_vidc.md R352, 52_vidc.md R353, 52_vidc.md R357, 52_vidc.md
R364, 52_vidc.md R366, 52_vidc.md R374, 52_vidc.md R375, 52_vidc.md R376). Refusing the test modes is the treatment U41
and the free registers U40 of the spec; which signals SFR bit 8 = 0 clears, and the record of written registers, are
choices of the model (log 29). -/
def Obligations.VidcRegisters : Prop :=
  ∀ (d : Word) (s : State),
    let v := s.vidc
    let k := d.toNat / 2 ^ 26
    let puts (x : Vidc) : Prop :=
      writeVidc d s = .done () { s with vidc := { x with written := x.written ||| (1#64 <<< k) } }
    (∀ i : Fin 16, k = i.val → puts { v with palette := v.palette.set i (field d 0 13) }) ∧
    (k = 16 → puts { v with border := field d 0 13 }) ∧
    (∀ i : Fin 3, k = 17 + i.val → puts { v with cursor := v.cursor.set i (field d 0 13) }) ∧
    (∀ i : Fin 8, k = 24 + (i.val + 1) % 8 → puts { v with stereo := v.stereo.set i (field d 0 3) }) ∧
    (∀ i : Fin 8, i ≠ 6 → k = 32 + i.val → puts { v with horiz := v.horiz.set i (field d 14 10) }) ∧
    (k = 38 → puts { v with hcsr := field d 11 13 }) ∧
    (∀ i : Fin 8, k = 40 + i.val → puts { v with vert := v.vert.set i (field d 14 10) }) ∧
    (k = 48 → bit v.sfr 8 = true → bit d 8 = true → puts { v with sfr := field d 0 9 }) ∧
    (k = 48 → (bit v.sfr 8 = false ∨ bit d 8 = false) → puts { v with
      sfr := field d 0 9, vcount := 0, oddField := false, dummy := false, hsync := false, videoWanted := 0
      videoTaken := 0, cursorWanted := false, soundWanted := false, soundByte := 0, channel := 0 }) ∧
    (k = 56 → field d 14 2 = 0#2 → puts { v with cr := 0#2 ++ field d 0 9 }) ∧
    (k = 56 → field d 14 2 ≠ 0#2 → writeVidc d s = .refused .vidcTestMode) ∧
    ((20 ≤ k ∧ k < 24) ∨ (49 ≤ k ∧ k < 56) ∨ 57 ≤ k → ∃ (x : Vidc) (f : Nat), writeVidc d s = .done () { s with
      free := f
      vidc := { v with
        palette := x.palette, border := x.border, cursor := x.cursor, stereo := x.stereo, horiz := x.horiz
        hcsr := x.hcsr, vert := x.vert, sfr := x.sfr, cr := x.cr } })

/-- An IOC timer reloads after counter + 1 ticks, a Go at the underflow costs one more; timer 3 clocks the keyboard link
(53_ioc.md R425, 53_ioc.md R421, 53_ioc.md R422, 53_ioc.md R423, 53_ioc.md R424, 53_ioc.md R428, 53_ioc.md R429, 53_ioc.md
R430, 53_ioc.md R431). The period latch + 1 is the decision D32 of the spec; how the extra tick of a Go is told apart and
what the initialising read ends are choices of the model, the 32 reloads of a bit an inference (log 31). -/
def Obligations.TimerPeriod : Prop :=
  (∀ (n : Fin 4) (s : State), s.ioc.timers[n].inLatch ≠ 0#16 → s.ioc.timers[n].extra = false → s.ioc.coinciding = false →
    let k := s.ioc.timers[n].counter.toNat
    (∀ j, j ≤ k →
      let t := (tickTimer n)^[j] s
      t.ioc.timers[n].counter.toNat = k - j ∧ t.ioc.latA = s.ioc.latA ∧ t.ioc.baud = s.ioc.baud ∧
      (∀ m : Fin 4, m ≠ n → t.ioc.timers[m] = s.ioc.timers[m])) ∧
    (let t := (tickTimer n)^[k + 1] s
     t.ioc.timers[n].counter = s.ioc.timers[n].inLatch ∧
     (n = 0 → t.ioc.latA = s.ioc.latA ||| 0b01000#5) ∧ (n = 1 → t.ioc.latA = s.ioc.latA ||| 0b10000#5) ∧
     (n = 2 → t.ioc.baud = !s.ioc.baud))) ∧
  (∀ (n : Fin 4) (s : State), s.ioc.coinciding = false → s.ioc.timers[n].extra = true →
    tickTimer n s = setTimer n { s.ioc.timers[n] with extra := false } s) ∧
  (∀ (n : Fin 4) (s : State), s.ioc.coinciding = true → bit s.ioc.lastGo n = true →
    let t := tickTimer n s
    t.ioc.timers[n] = { s.ioc.timers[n] with extra := true } ∧
    (s.ioc.timers[n].inLatch ≠ 0#16 →
      (n = 2 → t.ioc.baud = !s.ioc.baud) ∧
      (n = 0 → bit s.ioc.lastClear 3 = false → t.ioc.latA = s.ioc.latA ||| 0b01000#5) ∧
      (n = 1 → bit s.ioc.lastClear 4 = false → t.ioc.latA = s.ioc.latA ||| 0b10000#5))) ∧
  (∀ (n : Fin 4) (s : State),
    (goTimer n s).ioc.timers[n] = { s.ioc.timers[n] with counter := s.ioc.timers[n].inLatch, extra := false }) ∧
  (∀ (b : Byte) (s : State), s.ioc.rxReady = true → s.ioc.rx = none → s.ioc.srx = false → s.ioc.rxSpoiled = false →
    (∀ j, j < 272 → ((reloadEvent 3)^[j] (kartFrame b s)).ioc.srx = false) ∧
    ((reloadEvent 3)^[272] (kartFrame b s)).ioc.srx = true ∧ ((reloadEvent 3)^[272] (kartFrame b s)).ioc.rxData = b) ∧
  (∀ (v : Byte) (s : State),
    (∀ j, j < 352 → ((reloadEvent 3)^[j] (writeIocRegister 1#5 v s)).ioc.stx = false) ∧
    ((reloadEvent 3)^[352] (writeIocRegister 1#5 v s)).ioc.stx = true ∧
    ((reloadEvent 3)^[352] (writeIocRegister 1#5 v s)).ioc.sent = s.ioc.sent ++ [v]) ∧
  (∀ s : State, s.ioc.rxReady = false →
    (readSerial s).2.ioc = { s.ioc with srx := false, rxSpoiled := false, rx := none, rxReady := true })

/-- IOC requests are status AND mask, and drive -IRQ and -FIRQ (53_ioc.md R410, 53_ioc.md R411, 53_ioc.md R412, 53_ioc.md
R413). -/
def Obligations.IocInterrupts : Prop :=
  (∀ s : State, s.plat.hasIoc = true →
    (irqLow s = true ↔ statusA s &&& s.ioc.maskA ≠ 0#8 ∨ statusB s &&& s.ioc.maskB ≠ 0#8) ∧
    (firqLow s = true ↔ statusF s &&& s.ioc.maskF ≠ 0#8) ∧
    (s.ioc.maskA = 0#8 → s.ioc.maskB = 0#8 → s.ioc.maskF = 0#8 → irqLow s = false ∧ firqLow s = false)) ∧
  (∀ (v : Byte) (s : State),
    (writeIocRegister 6#5 v s).ioc.maskA = v ∧ (writeIocRegister 10#5 v s).ioc.maskB = v ∧
    (writeIocRegister 14#5 v s).ioc.maskF = v ∧
    ∀ k, k < 5 → (writeIocRegister 5#5 v s).ioc.latA.getLsbD k = (s.ioc.latA.getLsbD k && !v.getLsbD (k + 2)))

/-- A cacheable miss fills a line with its four words, and later reads of the line hit without a bus access
(50_cache_cp15.md R281, 50_cache_cp15.md R283, 50_cache_cp15.md R288). The sharing of lines is the decision D21 (log 23),
the later words after an abort an inference (log 23), the flat memory without MEMC D3 (log 38), what happens between two
accesses an input (log 11), the cut of an abandoned instruction log 32. -/
def Obligations.CacheFillThenHit : Prop :=
  (∀ (a : Addr) (tr : Bool) (s : State) (l : CacheLine), cacheOn s = true → cacheLookup a tr s = some l →
    memRead a tr s = .done (lineWord l a) s) ∧
  (∀ (a : Addr) (tr : Bool) (s t : State) (w : Word), cacheOn s = true → cacheLookup a tr s = none →
    cacheable a s = true → memRead a tr s = .done w t →
    memRead a tr t = .done w t ∧ ∀ b, tagOf b = tagOf a → ∃ v, memRead b tr t = .done v t) ∧
  (∀ (a : Addr) (tr : Bool) (s s0 s1 s2 s3 : State) (w0 w1 w2 w3 : Word), cacheOn s = true → cacheLookup a tr s = none →
    cacheable a s = true →
    let base : Addr := field a 4 22 ++ 0#4
    let word (b : Addr) : Word :=
      if field b 2 2 = 0#2 then w0 else if field b 2 2 = 1#2 then w1 else if field b 2 2 = 2#2 then w2 else w3
    extRead base tr s = .done w0 s0 → extRead (base + 4) tr s0 = .done w1 s1 →
    extRead (base + 8) tr s1 = .done w2 s2 → extRead (base + 12) tr s2 = .done w3 s3 →
    ∃ t, memRead a tr s = .done (word a) t ∧ ∀ b, tagOf b = tagOf a → memRead b tr t = .done (word b) t) ∧
  (∀ (a : Addr) (tr : Bool) (s : State), s.plat.hasMemc = false → s.cut = none → s.midEvents = [] →
    cacheOn s = true → cacheLookup a tr s = none → cacheable a s = true →
    ∃ t, memRead a tr s = .done (s.mem.readWord (alignWord a).toNat) t ∧
      ∀ b, tagOf b = tagOf a → memRead b tr t = .done (s.mem.readWord (alignWord b).toNat) t)

/-- What a write does to the cache, on or off (50_cache_cp15.md R286, 50_cache_cp15.md R290, 50_cache_cp15.md R274,
50_cache_cp15.md R282). That an aborted write to a disruptive area flushes is the choice that R290 itself makes where its
source is silent (log 23). The sharing of lines is the decision D21 of the spec (log 23), unaligned word stores D9 (log
34), events between accesses log 11. -/
def Obligations.CacheWrites : Prop :=
  ∀ (a : Addr) (size : Size) (d : Word) (tr : Bool) (s t : State), s.plat.cpu = .cpu020 → s.cut = none →
    let before := takeBatch s
    (s.midEvents = [] → before.cache = s.cache) ∧
    (memWrite a size d tr s = .abort t → t.cache = if disruptive a s then [] else before.cache) ∧
    (memWrite a size d tr s = .done () t →
    (disruptive a s = true → t.cache = []) ∧
    (disruptive a s = false → updateable a s = true →
      (∀ l, cacheLookup a tr before = some l →
        cacheLookup a tr t = some (setLineWord l a (mergeWord a size d (lineWord l a)))) ∧
      (∀ b x, ¬ (tagOf b = tagOf a ∧ spaceOf x s = spaceOf tr s) → cacheLookup b x t = cacheLookup b x before) ∧
      (∀ tag space, ¬ (tag = tagOf a ∧ space = spaceOf tr s) →
        t.cache.find? (lineMatches tag space) = before.cache.find? (lineMatches tag space)) ∧
      (∀ b x, cacheLookup b x before = none → cacheLookup b x t = none) ∧ t.cache.length = before.cache.length) ∧
    (disruptive a s = false → updateable a s = false → t.cache = before.cache))

/-- What the state after reset holds (10_state.md R40, 10_state.md R41, 10_state.md R42, 70_reset_and_hazards.md R495). -/
def Obligations.ResetState : Prop :=
  let s := State.reset
  s.psr.mode = .svc ∧ s.psr.i = true ∧ s.psr.f = true ∧ s.pc = 0 ∧ s.pipe = [] ∧ s.cp15.r2 = 0 ∧ s.cache = [] ∧
  s.memc.boot = .boot0 ∧ s.memc.pageSize = 0 ∧ s.memc.lowRom = 0 ∧ s.memc.highRom = 0 ∧ s.memc.osMode = false ∧
  s.memc.soundDma = false ∧ s.memc.testMode = false ∧ s.memc.nextValid = false ∧ s.ioc.ctrl = 0x3F#6 ∧
  bit s.ioc.latA 2 = true ∧ s.held = none

/-- What a reset input does, cold and warm, and what is left of the instruction it abandons (70_reset_and_hazards.md R490,
70_reset_and_hazards.md R491, 70_reset_and_hazards.md R492, 70_reset_and_hazards.md R493, 60_exceptions.md R452). The
wiring of the resets is the decision D34, what a warm reset keeps is D8; that an abandoned instruction is cut after a
number of accesses and leaves the registers it may write free is the choice of the model (log 32). -/
def Obligations.SystemReset : Prop :=
  (∀ (kind : ResetKind) (s : State),
    let t := systemReset kind s
    (t.psr.mode = .svc ∧ t.psr.i = true ∧ t.psr.f = true ∧ t.pc = 0 ∧ t.pipe = [] ∧ t.cache = [] ∧ t.cp15.r2 = 0 ∧
      t.held = none ∧ t.memc.boot = .boot0 ∧ t.memc.pageSize = 0 ∧ t.memc.lowRom = 0 ∧ t.memc.highRom = 0 ∧
      t.memc.osMode = false ∧ t.memc.soundDma = false ∧ t.memc.testMode = false ∧ t.memc.nextValid = false ∧
      t.ioc.ctrl = 0x3F#6) ∧
    (kind = .powerOn → bit t.ioc.latA 2 = true) ∧
    (kind = .warm → t.mem = s.mem ∧ t.ioc.maskA = s.ioc.maskA ∧ t.ioc.maskB = s.ioc.maskB ∧
      t.ioc.maskF = s.ioc.maskF ∧ t.psr.n = s.psr.n ∧ t.psr.z = s.psr.z ∧ t.psr.c = s.psr.c ∧ t.psr.v = s.psr.v ∧
      ∀ q, q ≠ .svc 1 → getPhys t.regs q = getPhys s.regs q)) ∧
  (∀ (b : Boundary) (r : ResetInput) (s : State), ¬ (s.plat.cpu = .cpu020 ∧ r.tooShort = true) →
    (r.abandons = none → s.held = none → takeReset exec b r s = .next (systemReset r.kind s)) ∧
    (∀ w priv sl₁ sl₂, s.held ≠ none → s.pipe = [⟨.word w, priv⟩, sl₁, sl₂] →
      takeReset exec b r s = .next (systemReset r.kind (halfDone true (decode s.plat.cpu w) s s))) ∧
    (s.held ≠ none → (s.pipe.length ≤ 1 ∨ (s.pipe.length = 2 ∧ r.abandons = none)) →
      takeReset exec b r s = .next (systemReset r.kind s)) ∧
    (∀ n u, s.held ≠ none → s.pipe.length = 2 → r.abandons = some n →
      executeHead (abandoned exec) { s with held := none, cut := some 0 } = .next u →
      takeReset exec b r s = .next (systemReset r.kind u)) ∧
    (∀ n u, r.abandons = some n → s.held = none →
      runBoundary (abandoned exec) b.hideIrq b.hideFirq { s with cut := some n } = .next u →
      takeReset exec b r s = .next (systemReset r.kind u))) ∧
  (∀ (i : Instr) (s t : State), exec i s = .next t → ∃ u, abandoned exec i s = .next u ∧
    u.mem = t.mem ∧ u.memc = t.memc ∧ u.vidc = t.vidc ∧ u.ioc = t.ioc ∧ u.cache = t.cache ∧ u.coprocs = t.coprocs ∧
    u.devices = t.devices ∧
    (∀ q, q ∉ mayWritePhys false i s → getPhys u.regs q = getPhys s.regs q) ∧
    (u.psr.n = s.psr.n ∨ u.psr.n = t.psr.n) ∧ (u.psr.z = s.psr.z ∨ u.psr.z = t.psr.z) ∧
    (u.psr.c = s.psr.c ∨ u.psr.c = t.psr.c) ∧ (u.psr.v = s.psr.v ∨ u.psr.v = t.psr.v)) ∧
  (∀ (i : Instr) (s : State), (halfDone true i s s).psr = s.psr ∧ (halfDone true i s s).mem = s.mem ∧
    ∀ q, q ∉ mayWritePhys true i s → getPhys (halfDone true i s s).regs q = getPhys s.regs q) ∧
  (∀ (a : Addr) (size : Size) (d : Word) (tr : Bool) (s : State), s.cut = some 0 →
    extRead a tr s = .held s ∧ memWrite a size d tr s = .held s)

/-- The invariant holds after reset (70_reset_and_hazards.md R495, 50_cache_cp15.md R280, 10_state.md R36, 51_memc.md
R314). The canonical form of memory is the form of the model (log 7), the translator of all zeros log 4. -/
def Obligations.InvReset : Prop :=
  Inv State.reset

/-- Every step keeps the invariant, and never changes the parameters of the platform (50_cache_cp15.md R280,
50_cache_cp15.md R281, 10_state.md R36, 20_memory.md R45, 51_memc.md R314, 00_scope.md R8). The canonical form of memory
is the form of the model (log 7), cache replacement is the decision D27 (log 23), that the parameters are a field of the
state is the form of the model (log 1), the cut of an abandoned instruction log 32. -/
def Obligations.InvStep : Prop :=
  (∀ s t : State, Inv s → step s = .next t → Inv t) ∧
  (∀ s t : State, step s = .next t → t.plat = s.plat)

/-- In User mode an instruction changes I, F and the mode only by taking an exception; outside it they are written
directly (R26). -/
def Obligations.UserModePsr : Prop :=
  (∀ (i : Instr) (s t : State), s.psr.mode = .user → exec i s = .next t →
    (t.psr.i = s.psr.i ∧ t.psr.f = s.psr.f ∧ t.psr.mode = .user) ∨
    (∃ e x, t = enter e x ∧ x.psr = s.psr)) ∧
  (∀ (c : Cond) (rn : Reg) (op2 : Op2) (s : State), condPassed c s.psr = true →
    let r := regOrPc (aheadOf op2) 0 rn s ^^^ (evalOp2 op2 s).value
    ∃ t, exec (.teq c true rn 15#4 op2) s = .next t ∧ t.pc = s.pc + 1 ∧
      t.psr = if s.psr.mode = .user then { s.psr with n := bit r 31, z := bit r 30, c := bit r 29, v := bit r 28 }
        else { n := bit r 31, z := bit r 30, c := bit r 29, v := bit r 28, i := bit r 27, f := bit r 26,
               mode := modeOfBits (field r 0 2) })

/-- A User-mode instruction cannot change a privileged bank (10_state.md R22, 10_state.md R23, 60_exceptions.md R451,
60_exceptions.md R471). -/
def Obligations.UserModeBanks : Prop :=
  ∀ (i : Instr) (s t : State), s.psr.mode = .user → s.hazard = .none → exec i s = .next t →
    t.regs.fiq = s.regs.fiq ∧ t.regs.irq = s.regs.irq ∧ getPhys t.regs (.svc 0) = getPhys s.regs (.svc 0) ∧
    (t.psr.mode = .user → t.regs.svc = s.regs.svc) ∧ (t.psr.mode = .user ∨ t.psr.mode = .svc)

/-- Which prefetched words a store can still change, and that every write of the PC leaves nothing prefetched
(20_memory.md R63, 10_state.md R28, 10_state.md R36, 41_data_processing.md R121). The old or the new word is the decision
D12 (U31, log 9), the held clocks are the treatments U30 and U34 (log 26), the cut of an abandoned instruction log 32. -/
def Obligations.PrefetchOverlap : Prop :=
  (∀ s t : State, s.pipe.length ≤ 3 → fillPipe s = .done () t →
    t.pipe.length = 3 ∧ t.pipe.take s.pipe.length = s.pipe) ∧
  (∀ (a : Addr) (size : Size) (d : Word) (tr : Bool) (s t : State), memWrite a size d tr s = .done () t →
    t.pipe.length = s.pipe.length ∧
    ∀ k : Nat, t.pipe[k]? = s.pipe[k]? ∨
      (1 ≤ k ∧ field a 2 24 = s.pc + BitVec.ofNat 24 k ∧ ∃ w priv, s.pipe[k]? = some ⟨.word w, priv⟩ ∧
        t.pipe[k]? = some ⟨.word (mergeWord a size d w), priv⟩)) ∧
  (∀ (c : Cond) (off : BitVec 24) (s : State), condPassed c s.psr = true →
    (∃ t, exec (.b c off) s = .next t ∧ t.pipe = []) ∧ (∃ t, exec (.bl c off) s = .next t ∧ t.pipe = [])) ∧
  (∀ (i : Instr) (s t : State), writesPc i = true → condPassed i.cond s.psr = true → s.cut = none →
    exec i s = .next t → t.held = none → t.pipe = []) ∧
  (∀ (e : Exc) (link : Word) (s : State), (enterWith e link s).pipe = [])
end

