-- ==== Sys2Proof/Laws/Bits.lean ====
section
/-! SUPPORT. Fields of appended bit vectors, with side conditions that `decide` closes on numerals, and the small round trips
of the encoding tables. -/

namespace Sys2Proof

theorem field_append_high {a b : Nat} (x : BitVec a) (y : BitVec b) (s l : Nat) (h : b ≤ s) :
    (x ++ y).extractLsb' s l = x.extractLsb' (s - b) l := by
  ext i hi
  simp [BitVec.getLsbD_append, Nat.not_lt.mpr (Nat.le_add_right_of_le h), Nat.sub_add_comm h]

theorem field_append_low {a b : Nat} (x : BitVec a) (y : BitVec b) (s l : Nat) (h : s + l ≤ b) :
    (x ++ y).extractLsb' s l = y.extractLsb' s l := by
  ext i hi
  simp [BitVec.getLsbD_append, show s + i < b by omega]

theorem bit_append_high {a b : Nat} (x : BitVec a) (y : BitVec b) (k : Nat) (h : b ≤ k) :
    (x ++ y).getLsbD k = x.getLsbD (k - b) := by simp [BitVec.getLsbD_append, Nat.not_lt.mpr h]

theorem bit_append_low {a b : Nat} (x : BitVec a) (y : BitVec b) (k : Nat) (h : k < b) :
    (x ++ y).getLsbD k = y.getLsbD k := by simp [BitVec.getLsbD_append, h]

/-- A field that takes `h` bits of the upper part and `l` of the lower. -/
theorem field_append_both {a b : Nat} (x : BitVec a) (y : BitVec b) (s h l : Nat) (e : s + l = b) :
    (x ++ y).extractLsb' s (h + l) = x.extractLsb' 0 h ++ y.extractLsb' s l := by
  ext i hi
  simp only [BitVec.getElem_extractLsb', BitVec.getLsbD_append, BitVec.getElem_append]
  by_cases c : i < l
  · simp [c, show s + i < b by omega]
  · simp [c, show ¬ s + i < b by omega, show s + i - b = i - l by omega]

theorem condOfCode_condCode (c : Cond) : condOfCode (condCode c) = c := by cases c <;> rfl

theorem condCode_condOfCode (k : BitVec 4) : condCode (condOfCode k) = k := by revert k; decide

theorem shiftOfCode_shiftCode (t : ShiftType) : shiftOfCode (shiftCode t) = t := by cases t <;> rfl

theorem shiftCode_shiftOfCode (k : BitVec 2) : shiftCode (shiftOfCode k) = k := by revert k; decide

end Sys2Proof
end

