-- ==== Sys2Proof/Laws/Memory.lean ====
section
/-! SUPPORT. Memory as data: what a read gives after a write, and that every operation keeps the canonical form. -/

namespace Sys2Proof.Machine

theorem Memory.wfFrom_mono {lo hi : Nat} {m : Memory} (h : hi ≤ lo) (w : Memory.wfFrom lo m = true) :
    Memory.wfFrom hi m = true := by
  cases m with
  | nil => rfl
  | cons c t =>
    simp only [Memory.wfFrom, Bool.and_eq_true, decide_eq_true_eq] at w ⊢
    exact ⟨⟨⟨by omega, w.1.1.2⟩, w.1.2⟩, w.2⟩

/-- A location below every listed one reads as the unlisted byte. -/
theorem Memory.read_below {lo a : Nat} {m : Memory} (w : Memory.wfFrom lo m = true) (h : a < lo) :
    m.read a = unlistedByte := by
  induction m generalizing lo with
  | nil => rfl
  | cons c t ih =>
    simp only [Memory.wfFrom, Bool.and_eq_true, decide_eq_true_eq] at w
    simp only [Memory.read]
    rw [if_neg (by omega)]
    exact ih w.2 (by omega)

theorem Memory.read_cons (a : Nat) (v : Byte) (m : Memory) (b : Nat) (h : m.read a = unlistedByte) :
    Memory.read (Memory.cons a v m) b = if b = a then v else m.read b := by
  unfold Memory.cons
  by_cases hv : v = unlistedByte
  · rw [if_pos hv]; split
    · next e => rw [e, h, hv]
    · rfl
  · rw [if_neg hv]; simp only [Memory.read, eq_comm]

theorem Memory.wfFrom_cons {lo a : Nat} {v : Byte} {m : Memory} (hl : lo ≤ a) (ha : a < 2 ^ 26)
    (w : Memory.wfFrom (a + 1) m = true) : Memory.wfFrom lo (Memory.cons a v m) = true := by
  unfold Memory.cons
  by_cases hv : v = unlistedByte
  · rw [if_pos hv]; exact Memory.wfFrom_mono (by omega) w
  · rw [if_neg hv]; simp [Memory.wfFrom, hl, w, hv]; omega

/-- A write keeps the canonical form. -/
theorem Memory.wfFrom_write {lo a : Nat} {v : Byte} {m : Memory} (hl : lo ≤ a) (ha : a < 2 ^ 26)
    (w : Memory.wfFrom lo m = true) : Memory.wfFrom lo (m.write a v) = true := by
  induction m generalizing lo with
  | nil => exact Memory.wfFrom_cons hl ha rfl
  | cons c t ih =>
    have w' := w
    simp only [Memory.wfFrom, Bool.and_eq_true, decide_eq_true_eq] at w
    simp only [Memory.write]
    split
    · next h =>
      apply Memory.wfFrom_cons hl ha
      simp only [Memory.wfFrom, Bool.and_eq_true, decide_eq_true_eq]
      exact ⟨⟨⟨by omega, w.1.1.2⟩, w.1.2⟩, w.2⟩
    · split
      · next h => subst h; exact Memory.wfFrom_cons hl ha w.2
      · simp only [Memory.wfFrom, Bool.and_eq_true, decide_eq_true_eq]
        exact ⟨⟨⟨w.1.1.1, w.1.1.2⟩, w.1.2⟩, ih (by omega) w.2⟩

theorem Memory.wf_write {a : Nat} {m : Memory} (v : Byte) (ha : a < 2 ^ 26) (w : Memory.wf m = true) :
    Memory.wf (m.write a v) = true := Memory.wfFrom_write (Nat.zero_le _) ha w

theorem Memory.read_write_from {lo : Nat} (m : Memory) (a : Nat) (v : Byte) (b : Nat) (w : Memory.wfFrom lo m = true) :
    (m.write a v).read b = if b = a then v else m.read b := by
  induction m generalizing lo with
  | nil => exact Memory.read_cons a v [] b rfl
  | cons c t ih =>
    obtain ⟨k, x⟩ := c
    have w' := w
    simp only [Memory.wfFrom, Bool.and_eq_true, decide_eq_true_eq] at w
    simp only [Memory.write]
    split
    · next h =>
      refine Memory.read_cons a v _ b ?_
      simp only [Memory.read]
      rw [if_neg (by omega)]
      exact Memory.read_below w.2 (by omega)
    · split
      · next h =>
        subst h
        rw [Memory.read_cons a v t b (Memory.read_below w.2 (by omega))]
        simp only [Memory.read]
        by_cases e : b = a
        · simp [e]
        · simp [e, Ne.symm e]
      · next h1 h2 =>
        simp only [Memory.read, ih w.2]
        by_cases e : k = b
        · subst e; simp [Ne.symm h2]
        · simp [e]

/-- What a read gives after a write: the value written, and elsewhere what it gave before. -/
theorem Memory.read_write {m : Memory} (w : Memory.wf m = true) (a : Nat) (v : Byte) (b : Nat) :
    (m.write a v).read b = if b = a then v else m.read b := Memory.read_write_from m a v b w

/-- A word store keeps the canonical form. -/
theorem Memory.wf_writeWord {a : Nat} {m : Memory} (v : Word) (ha : a + 3 < 2 ^ 26) (w : Memory.wf m = true) :
    Memory.wf (m.writeWord a v) = true := by
  unfold Memory.writeWord
  exact Memory.wf_write _ ha (Memory.wf_write _ (by omega) (Memory.wf_write _ (by omega) (Memory.wf_write _ (by omega) w)))

/-- What a read gives after a word store (R45). -/
theorem Memory.read_writeWord {m : Memory} (w : Memory.wf m = true) {a : Nat} (ha : a + 3 < 2 ^ 26) (v : Word) (b : Nat) :
    (m.writeWord a v).read b =
      if b = a + 3 then byteOfWord v 3 else if b = a + 2 then byteOfWord v 2
      else if b = a + 1 then byteOfWord v 1 else if b = a then byteOfWord v 0 else m.read b := by
  have w0 := Memory.wf_write (byteOfWord v 0) (by omega : a < 2 ^ 26) w
  have w1 := Memory.wf_write (byteOfWord v 1) (by omega : a + 1 < 2 ^ 26) w0
  have w2 := Memory.wf_write (byteOfWord v 2) (by omega : a + 2 < 2 ^ 26) w1
  unfold Memory.writeWord
  rw [Memory.read_write w2, Memory.read_write w1, Memory.read_write w0, Memory.read_write w]

/-- A word is its four bytes (R45). -/
theorem wordOfBytes_byteOfWord (v : Word) :
    wordOfBytes (byteOfWord v 0) (byteOfWord v 1) (byteOfWord v 2) (byteOfWord v 3) = v := by
  apply BitVec.eq_of_getLsbD_eq
  intro i hi
  simp only [wordOfBytes, byteOfWord, BitVec.getLsbD_append, BitVec.getLsbD_extractLsb']
  interval_cases i <;> simp

/-- Reading back a stored word (R45). -/
theorem Memory.readWord_writeWord {m : Memory} (w : Memory.wf m = true) {a : Nat} (ha : a + 3 < 2 ^ 26) (v : Word) :
    (m.writeWord a v).readWord a = v := by
  unfold Memory.readWord
  simp only [Memory.read_writeWord w ha]
  simp [wordOfBytes_byteOfWord]

/-- Two memories in canonical form that read the same everywhere are the same data. -/
theorem Memory.ext_of_read {lo : Nat} {m n : Memory} (hm : Memory.wfFrom lo m = true) (hn : Memory.wfFrom lo n = true)
    (h : ∀ a, m.read a = n.read a) : m = n := by
  induction m generalizing lo n with
  | nil =>
    cases n with
    | nil => rfl
    | cons d u =>
      simp only [Memory.wfFrom, Bool.and_eq_true, Bool.not_eq_true', beq_eq_false_iff_ne] at hn
      have := h d.1
      simp only [Memory.read] at this
      exact absurd this.symm (by simpa using hn.1.2)
  | cons c t ih =>
    obtain ⟨k, x⟩ := c
    have hm' := hm
    simp only [Memory.wfFrom, Bool.and_eq_true, decide_eq_true_eq, Bool.not_eq_true', beq_eq_false_iff_ne] at hm
    cases n with
    | nil =>
      have := h k
      simp only [Memory.read] at this
      exact absurd (by simpa using this) hm.1.2
    | cons d u =>
      obtain ⟨l, y⟩ := d
      have hn' := hn
      simp only [Memory.wfFrom, Bool.and_eq_true, decide_eq_true_eq, Bool.not_eq_true', beq_eq_false_iff_ne] at hn
      have hkl : k = l := by
        rcases Nat.lt_trichotomy k l with lt | eq | gt
        · have e := h k
          simp only [Memory.read, if_true] at e
          rw [if_neg (by omega), Memory.read_below hn.2 (by omega)] at e
          exact absurd e hm.1.2
        · exact eq
        · have e := h l
          simp only [Memory.read, if_true] at e
          rw [if_neg (by omega), Memory.read_below hm.2 (by omega)] at e
          exact absurd e.symm hn.1.2
      subst hkl
      have hxy : x = y := by simpa [Memory.read] using h k
      subst hxy
      congr 1
      refine ih hm.2 hn.2 fun a => ?_
      by_cases e : k = a
      · subst e; rw [Memory.read_below hm.2 (by omega), Memory.read_below hn.2 (by omega)]
      · simpa [Memory.read, e] using h a

end Sys2Proof.Machine
end

