-- ==== Sys2Proof/Laws/State.lean ====
section
/-! SUPPORT. One lemma per field of State for each whole-state update of the shared operations, all true by computation, so
that no later proof unfolds a record update. -/

namespace Sys2Proof.Machine

/-! ## retire -/

@[simp] theorem retire_plat (s : State) : (retire s).plat = s.plat := rfl
@[simp] theorem retire_regs (s : State) : (retire s).regs = s.regs := rfl
@[simp] theorem retire_psr (s : State) : (retire s).psr = s.psr := rfl
@[simp] theorem retire_pc (s : State) : (retire s).pc = s.pc := rfl
@[simp] theorem retire_pipe (s : State) : (retire s).pipe = s.pipe := rfl
@[simp] theorem retire_hazard (s : State) : (retire s).hazard = .none := rfl
@[simp] theorem retire_afterCdo (s : State) : (retire s).afterCdo = false := rfl
@[simp] theorem retire_held (s : State) : (retire s).held = s.held := rfl
@[simp] theorem retire_nirq (s : State) : (retire s).nirq = s.nirq := rfl
@[simp] theorem retire_nfirq (s : State) : (retire s).nfirq = s.nfirq := rfl
@[simp] theorem retire_cp15 (s : State) : (retire s).cp15 = s.cp15 := rfl
@[simp] theorem retire_cache (s : State) : (retire s).cache = s.cache := rfl
@[simp] theorem retire_mem (s : State) : (retire s).mem = s.mem := rfl
@[simp] theorem retire_memc (s : State) : (retire s).memc = s.memc := rfl
@[simp] theorem retire_vidc (s : State) : (retire s).vidc = s.vidc := rfl
@[simp] theorem retire_ioc (s : State) : (retire s).ioc = s.ioc := rfl
@[simp] theorem retire_coprocs (s : State) : (retire s).coprocs = s.coprocs := rfl
@[simp] theorem retire_devices (s : State) : (retire s).devices = s.devices := rfl
@[simp] theorem retire_free (s : State) : (retire s).free = s.free + 1 := rfl
@[simp] theorem retire_inputs (s : State) : (retire s).inputs = s.inputs := rfl
@[simp] theorem retire_midEvents (s : State) : (retire s).midEvents = s.midEvents := rfl
@[simp] theorem retire_cut (s : State) : (retire s).cut = s.cut := rfl

/-! ## advance -/

@[simp] theorem advance_plat (s : State) : (advance s).plat = s.plat := rfl
@[simp] theorem advance_regs (s : State) : (advance s).regs = s.regs := rfl
@[simp] theorem advance_psr (s : State) : (advance s).psr = s.psr := rfl
@[simp] theorem advance_pc (s : State) : (advance s).pc = s.pc + 1 := rfl
@[simp] theorem advance_pipe (s : State) : (advance s).pipe = s.pipe.tail := rfl
@[simp] theorem advance_hazard (s : State) : (advance s).hazard = s.hazard := rfl
@[simp] theorem advance_afterCdo (s : State) : (advance s).afterCdo = s.afterCdo := rfl
@[simp] theorem advance_held (s : State) : (advance s).held = s.held := rfl
@[simp] theorem advance_nirq (s : State) : (advance s).nirq = s.nirq := rfl
@[simp] theorem advance_nfirq (s : State) : (advance s).nfirq = s.nfirq := rfl
@[simp] theorem advance_cp15 (s : State) : (advance s).cp15 = s.cp15 := rfl
@[simp] theorem advance_cache (s : State) : (advance s).cache = s.cache := rfl
@[simp] theorem advance_mem (s : State) : (advance s).mem = s.mem := rfl
@[simp] theorem advance_memc (s : State) : (advance s).memc = s.memc := rfl
@[simp] theorem advance_vidc (s : State) : (advance s).vidc = s.vidc := rfl
@[simp] theorem advance_ioc (s : State) : (advance s).ioc = s.ioc := rfl
@[simp] theorem advance_coprocs (s : State) : (advance s).coprocs = s.coprocs := rfl
@[simp] theorem advance_devices (s : State) : (advance s).devices = s.devices := rfl
@[simp] theorem advance_free (s : State) : (advance s).free = s.free := rfl
@[simp] theorem advance_inputs (s : State) : (advance s).inputs = s.inputs := rfl
@[simp] theorem advance_midEvents (s : State) : (advance s).midEvents = s.midEvents := rfl
@[simp] theorem advance_cut (s : State) : (advance s).cut = s.cut := rfl

/-! ## jump -/

@[simp] theorem jump_plat (v : PcWord) (s : State) : (jump v s).plat = s.plat := rfl
@[simp] theorem jump_regs (v : PcWord) (s : State) : (jump v s).regs = s.regs := rfl
@[simp] theorem jump_psr (v : PcWord) (s : State) : (jump v s).psr = s.psr := rfl
@[simp] theorem jump_pc (v : PcWord) (s : State) : (jump v s).pc = v := rfl
@[simp] theorem jump_pipe (v : PcWord) (s : State) : (jump v s).pipe = [] := rfl
@[simp] theorem jump_hazard (v : PcWord) (s : State) : (jump v s).hazard = s.hazard := rfl
@[simp] theorem jump_afterCdo (v : PcWord) (s : State) : (jump v s).afterCdo = s.afterCdo := rfl
@[simp] theorem jump_held (v : PcWord) (s : State) : (jump v s).held = s.held := rfl
@[simp] theorem jump_nirq (v : PcWord) (s : State) : (jump v s).nirq = s.nirq := rfl
@[simp] theorem jump_nfirq (v : PcWord) (s : State) : (jump v s).nfirq = s.nfirq := rfl
@[simp] theorem jump_cp15 (v : PcWord) (s : State) : (jump v s).cp15 = s.cp15 := rfl
@[simp] theorem jump_cache (v : PcWord) (s : State) : (jump v s).cache = s.cache := rfl
@[simp] theorem jump_mem (v : PcWord) (s : State) : (jump v s).mem = s.mem := rfl
@[simp] theorem jump_memc (v : PcWord) (s : State) : (jump v s).memc = s.memc := rfl
@[simp] theorem jump_vidc (v : PcWord) (s : State) : (jump v s).vidc = s.vidc := rfl
@[simp] theorem jump_ioc (v : PcWord) (s : State) : (jump v s).ioc = s.ioc := rfl
@[simp] theorem jump_coprocs (v : PcWord) (s : State) : (jump v s).coprocs = s.coprocs := rfl
@[simp] theorem jump_devices (v : PcWord) (s : State) : (jump v s).devices = s.devices := rfl
@[simp] theorem jump_free (v : PcWord) (s : State) : (jump v s).free = s.free := rfl
@[simp] theorem jump_inputs (v : PcWord) (s : State) : (jump v s).inputs = s.inputs := rfl
@[simp] theorem jump_midEvents (v : PcWord) (s : State) : (jump v s).midEvents = s.midEvents := rfl
@[simp] theorem jump_cut (v : PcWord) (s : State) : (jump v s).cut = s.cut := rfl

/-! ## writeReg -/

@[simp] theorem writeReg_plat (k : Nat) (n : Reg) (v : Word) (s : State) : (writeReg k n v s).plat = s.plat := rfl
@[simp] theorem writeReg_regs (k : Nat) (n : Reg) (v : Word) (s : State) : (writeReg k n v s).regs = setPhys s.regs (phys (writeBank k s) n) v := rfl
@[simp] theorem writeReg_psr (k : Nat) (n : Reg) (v : Word) (s : State) : (writeReg k n v s).psr = s.psr := rfl
@[simp] theorem writeReg_pc (k : Nat) (n : Reg) (v : Word) (s : State) : (writeReg k n v s).pc = s.pc := rfl
@[simp] theorem writeReg_pipe (k : Nat) (n : Reg) (v : Word) (s : State) : (writeReg k n v s).pipe = s.pipe := rfl
@[simp] theorem writeReg_hazard (k : Nat) (n : Reg) (v : Word) (s : State) : (writeReg k n v s).hazard = s.hazard := rfl
@[simp] theorem writeReg_afterCdo (k : Nat) (n : Reg) (v : Word) (s : State) : (writeReg k n v s).afterCdo = s.afterCdo := rfl
@[simp] theorem writeReg_held (k : Nat) (n : Reg) (v : Word) (s : State) : (writeReg k n v s).held = s.held := rfl
@[simp] theorem writeReg_nirq (k : Nat) (n : Reg) (v : Word) (s : State) : (writeReg k n v s).nirq = s.nirq := rfl
@[simp] theorem writeReg_nfirq (k : Nat) (n : Reg) (v : Word) (s : State) : (writeReg k n v s).nfirq = s.nfirq := rfl
@[simp] theorem writeReg_cp15 (k : Nat) (n : Reg) (v : Word) (s : State) : (writeReg k n v s).cp15 = s.cp15 := rfl
@[simp] theorem writeReg_cache (k : Nat) (n : Reg) (v : Word) (s : State) : (writeReg k n v s).cache = s.cache := rfl
@[simp] theorem writeReg_mem (k : Nat) (n : Reg) (v : Word) (s : State) : (writeReg k n v s).mem = s.mem := rfl
@[simp] theorem writeReg_memc (k : Nat) (n : Reg) (v : Word) (s : State) : (writeReg k n v s).memc = s.memc := rfl
@[simp] theorem writeReg_vidc (k : Nat) (n : Reg) (v : Word) (s : State) : (writeReg k n v s).vidc = s.vidc := rfl
@[simp] theorem writeReg_ioc (k : Nat) (n : Reg) (v : Word) (s : State) : (writeReg k n v s).ioc = s.ioc := rfl
@[simp] theorem writeReg_coprocs (k : Nat) (n : Reg) (v : Word) (s : State) : (writeReg k n v s).coprocs = s.coprocs := rfl
@[simp] theorem writeReg_devices (k : Nat) (n : Reg) (v : Word) (s : State) : (writeReg k n v s).devices = s.devices := rfl
@[simp] theorem writeReg_free (k : Nat) (n : Reg) (v : Word) (s : State) : (writeReg k n v s).free = s.free := rfl
@[simp] theorem writeReg_inputs (k : Nat) (n : Reg) (v : Word) (s : State) : (writeReg k n v s).inputs = s.inputs := rfl
@[simp] theorem writeReg_midEvents (k : Nat) (n : Reg) (v : Word) (s : State) : (writeReg k n v s).midEvents = s.midEvents := rfl
@[simp] theorem writeReg_cut (k : Nat) (n : Reg) (v : Word) (s : State) : (writeReg k n v s).cut = s.cut := rfl

/-! ## writeUser -/

@[simp] theorem writeUser_plat (n : Reg) (v : Word) (s : State) : (writeUser n v s).plat = s.plat := rfl
@[simp] theorem writeUser_regs (n : Reg) (v : Word) (s : State) : (writeUser n v s).regs = setPhys s.regs (phys .user n) v := rfl
@[simp] theorem writeUser_psr (n : Reg) (v : Word) (s : State) : (writeUser n v s).psr = s.psr := rfl
@[simp] theorem writeUser_pc (n : Reg) (v : Word) (s : State) : (writeUser n v s).pc = s.pc := rfl
@[simp] theorem writeUser_pipe (n : Reg) (v : Word) (s : State) : (writeUser n v s).pipe = s.pipe := rfl
@[simp] theorem writeUser_hazard (n : Reg) (v : Word) (s : State) : (writeUser n v s).hazard = s.hazard := rfl
@[simp] theorem writeUser_afterCdo (n : Reg) (v : Word) (s : State) : (writeUser n v s).afterCdo = s.afterCdo := rfl
@[simp] theorem writeUser_held (n : Reg) (v : Word) (s : State) : (writeUser n v s).held = s.held := rfl
@[simp] theorem writeUser_nirq (n : Reg) (v : Word) (s : State) : (writeUser n v s).nirq = s.nirq := rfl
@[simp] theorem writeUser_nfirq (n : Reg) (v : Word) (s : State) : (writeUser n v s).nfirq = s.nfirq := rfl
@[simp] theorem writeUser_cp15 (n : Reg) (v : Word) (s : State) : (writeUser n v s).cp15 = s.cp15 := rfl
@[simp] theorem writeUser_cache (n : Reg) (v : Word) (s : State) : (writeUser n v s).cache = s.cache := rfl
@[simp] theorem writeUser_mem (n : Reg) (v : Word) (s : State) : (writeUser n v s).mem = s.mem := rfl
@[simp] theorem writeUser_memc (n : Reg) (v : Word) (s : State) : (writeUser n v s).memc = s.memc := rfl
@[simp] theorem writeUser_vidc (n : Reg) (v : Word) (s : State) : (writeUser n v s).vidc = s.vidc := rfl
@[simp] theorem writeUser_ioc (n : Reg) (v : Word) (s : State) : (writeUser n v s).ioc = s.ioc := rfl
@[simp] theorem writeUser_coprocs (n : Reg) (v : Word) (s : State) : (writeUser n v s).coprocs = s.coprocs := rfl
@[simp] theorem writeUser_devices (n : Reg) (v : Word) (s : State) : (writeUser n v s).devices = s.devices := rfl
@[simp] theorem writeUser_free (n : Reg) (v : Word) (s : State) : (writeUser n v s).free = s.free := rfl
@[simp] theorem writeUser_inputs (n : Reg) (v : Word) (s : State) : (writeUser n v s).inputs = s.inputs := rfl
@[simp] theorem writeUser_midEvents (n : Reg) (v : Word) (s : State) : (writeUser n v s).midEvents = s.midEvents := rfl
@[simp] theorem writeUser_cut (n : Reg) (v : Word) (s : State) : (writeUser n v s).cut = s.cut := rfl

/-! ## hold -/

@[simp] theorem hold_plat (r : HoldReason) (s : State) : (hold r s).plat = s.plat := rfl
@[simp] theorem hold_regs (r : HoldReason) (s : State) : (hold r s).regs = s.regs := rfl
@[simp] theorem hold_psr (r : HoldReason) (s : State) : (hold r s).psr = s.psr := rfl
@[simp] theorem hold_pc (r : HoldReason) (s : State) : (hold r s).pc = s.pc := rfl
@[simp] theorem hold_pipe (r : HoldReason) (s : State) : (hold r s).pipe = s.pipe := rfl
@[simp] theorem hold_hazard (r : HoldReason) (s : State) : (hold r s).hazard = s.hazard := rfl
@[simp] theorem hold_afterCdo (r : HoldReason) (s : State) : (hold r s).afterCdo = s.afterCdo := rfl
@[simp] theorem hold_held (r : HoldReason) (s : State) : (hold r s).held = some r := rfl
@[simp] theorem hold_nirq (r : HoldReason) (s : State) : (hold r s).nirq = s.nirq := rfl
@[simp] theorem hold_nfirq (r : HoldReason) (s : State) : (hold r s).nfirq = s.nfirq := rfl
@[simp] theorem hold_cp15 (r : HoldReason) (s : State) : (hold r s).cp15 = s.cp15 := rfl
@[simp] theorem hold_cache (r : HoldReason) (s : State) : (hold r s).cache = s.cache := rfl
@[simp] theorem hold_mem (r : HoldReason) (s : State) : (hold r s).mem = s.mem := rfl
@[simp] theorem hold_memc (r : HoldReason) (s : State) : (hold r s).memc = s.memc := rfl
@[simp] theorem hold_vidc (r : HoldReason) (s : State) : (hold r s).vidc = s.vidc := rfl
@[simp] theorem hold_ioc (r : HoldReason) (s : State) : (hold r s).ioc = s.ioc := rfl
@[simp] theorem hold_coprocs (r : HoldReason) (s : State) : (hold r s).coprocs = s.coprocs := rfl
@[simp] theorem hold_devices (r : HoldReason) (s : State) : (hold r s).devices = s.devices := rfl
@[simp] theorem hold_free (r : HoldReason) (s : State) : (hold r s).free = s.free := rfl
@[simp] theorem hold_inputs (r : HoldReason) (s : State) : (hold r s).inputs = s.inputs := rfl
@[simp] theorem hold_midEvents (r : HoldReason) (s : State) : (hold r s).midEvents = s.midEvents := rfl
@[simp] theorem hold_cut (r : HoldReason) (s : State) : (hold r s).cut = s.cut := rfl

/-! ## flushCache -/

@[simp] theorem flushCache_plat (s : State) : (flushCache s).plat = s.plat := rfl
@[simp] theorem flushCache_regs (s : State) : (flushCache s).regs = s.regs := rfl
@[simp] theorem flushCache_psr (s : State) : (flushCache s).psr = s.psr := rfl
@[simp] theorem flushCache_pc (s : State) : (flushCache s).pc = s.pc := rfl
@[simp] theorem flushCache_pipe (s : State) : (flushCache s).pipe = s.pipe := rfl
@[simp] theorem flushCache_hazard (s : State) : (flushCache s).hazard = s.hazard := rfl
@[simp] theorem flushCache_afterCdo (s : State) : (flushCache s).afterCdo = s.afterCdo := rfl
@[simp] theorem flushCache_held (s : State) : (flushCache s).held = s.held := rfl
@[simp] theorem flushCache_nirq (s : State) : (flushCache s).nirq = s.nirq := rfl
@[simp] theorem flushCache_nfirq (s : State) : (flushCache s).nfirq = s.nfirq := rfl
@[simp] theorem flushCache_cp15 (s : State) : (flushCache s).cp15 = s.cp15 := rfl
@[simp] theorem flushCache_cache (s : State) : (flushCache s).cache = [] := rfl
@[simp] theorem flushCache_mem (s : State) : (flushCache s).mem = s.mem := rfl
@[simp] theorem flushCache_memc (s : State) : (flushCache s).memc = s.memc := rfl
@[simp] theorem flushCache_vidc (s : State) : (flushCache s).vidc = s.vidc := rfl
@[simp] theorem flushCache_ioc (s : State) : (flushCache s).ioc = s.ioc := rfl
@[simp] theorem flushCache_coprocs (s : State) : (flushCache s).coprocs = s.coprocs := rfl
@[simp] theorem flushCache_devices (s : State) : (flushCache s).devices = s.devices := rfl
@[simp] theorem flushCache_free (s : State) : (flushCache s).free = s.free := rfl
@[simp] theorem flushCache_inputs (s : State) : (flushCache s).inputs = s.inputs := rfl
@[simp] theorem flushCache_midEvents (s : State) : (flushCache s).midEvents = s.midEvents := rfl
@[simp] theorem flushCache_cut (s : State) : (flushCache s).cut = s.cut := rfl

/-! ## dropLine -/

@[simp] theorem dropLine_plat (g : BitVec 22) (p : Space) (s : State) : (dropLine g p s).plat = s.plat := rfl
@[simp] theorem dropLine_regs (g : BitVec 22) (p : Space) (s : State) : (dropLine g p s).regs = s.regs := rfl
@[simp] theorem dropLine_psr (g : BitVec 22) (p : Space) (s : State) : (dropLine g p s).psr = s.psr := rfl
@[simp] theorem dropLine_pc (g : BitVec 22) (p : Space) (s : State) : (dropLine g p s).pc = s.pc := rfl
@[simp] theorem dropLine_pipe (g : BitVec 22) (p : Space) (s : State) : (dropLine g p s).pipe = s.pipe := rfl
@[simp] theorem dropLine_hazard (g : BitVec 22) (p : Space) (s : State) : (dropLine g p s).hazard = s.hazard := rfl
@[simp] theorem dropLine_afterCdo (g : BitVec 22) (p : Space) (s : State) : (dropLine g p s).afterCdo = s.afterCdo := rfl
@[simp] theorem dropLine_held (g : BitVec 22) (p : Space) (s : State) : (dropLine g p s).held = s.held := rfl
@[simp] theorem dropLine_nirq (g : BitVec 22) (p : Space) (s : State) : (dropLine g p s).nirq = s.nirq := rfl
@[simp] theorem dropLine_nfirq (g : BitVec 22) (p : Space) (s : State) : (dropLine g p s).nfirq = s.nfirq := rfl
@[simp] theorem dropLine_cp15 (g : BitVec 22) (p : Space) (s : State) : (dropLine g p s).cp15 = s.cp15 := rfl
@[simp] theorem dropLine_cache (g : BitVec 22) (p : Space) (s : State) : (dropLine g p s).cache = s.cache.filter fun l => !(lineMatches g p l) := rfl
@[simp] theorem dropLine_mem (g : BitVec 22) (p : Space) (s : State) : (dropLine g p s).mem = s.mem := rfl
@[simp] theorem dropLine_memc (g : BitVec 22) (p : Space) (s : State) : (dropLine g p s).memc = s.memc := rfl
@[simp] theorem dropLine_vidc (g : BitVec 22) (p : Space) (s : State) : (dropLine g p s).vidc = s.vidc := rfl
@[simp] theorem dropLine_ioc (g : BitVec 22) (p : Space) (s : State) : (dropLine g p s).ioc = s.ioc := rfl
@[simp] theorem dropLine_coprocs (g : BitVec 22) (p : Space) (s : State) : (dropLine g p s).coprocs = s.coprocs := rfl
@[simp] theorem dropLine_devices (g : BitVec 22) (p : Space) (s : State) : (dropLine g p s).devices = s.devices := rfl
@[simp] theorem dropLine_free (g : BitVec 22) (p : Space) (s : State) : (dropLine g p s).free = s.free := rfl
@[simp] theorem dropLine_inputs (g : BitVec 22) (p : Space) (s : State) : (dropLine g p s).inputs = s.inputs := rfl
@[simp] theorem dropLine_midEvents (g : BitVec 22) (p : Space) (s : State) : (dropLine g p s).midEvents = s.midEvents := rfl
@[simp] theorem dropLine_cut (g : BitVec 22) (p : Space) (s : State) : (dropLine g p s).cut = s.cut := rfl

/-! ## bootStep -/

@[simp] theorem bootStep_plat (a : Addr) (s : State) : (bootStep a s).plat = s.plat := rfl
@[simp] theorem bootStep_regs (a : Addr) (s : State) : (bootStep a s).regs = s.regs := rfl
@[simp] theorem bootStep_psr (a : Addr) (s : State) : (bootStep a s).psr = s.psr := rfl
@[simp] theorem bootStep_pc (a : Addr) (s : State) : (bootStep a s).pc = s.pc := rfl
@[simp] theorem bootStep_pipe (a : Addr) (s : State) : (bootStep a s).pipe = s.pipe := rfl
@[simp] theorem bootStep_hazard (a : Addr) (s : State) : (bootStep a s).hazard = s.hazard := rfl
@[simp] theorem bootStep_afterCdo (a : Addr) (s : State) : (bootStep a s).afterCdo = s.afterCdo := rfl
@[simp] theorem bootStep_held (a : Addr) (s : State) : (bootStep a s).held = s.held := rfl
@[simp] theorem bootStep_nirq (a : Addr) (s : State) : (bootStep a s).nirq = s.nirq := rfl
@[simp] theorem bootStep_nfirq (a : Addr) (s : State) : (bootStep a s).nfirq = s.nfirq := rfl
@[simp] theorem bootStep_cp15 (a : Addr) (s : State) : (bootStep a s).cp15 = s.cp15 := rfl
@[simp] theorem bootStep_cache (a : Addr) (s : State) : (bootStep a s).cache = s.cache := rfl
@[simp] theorem bootStep_mem (a : Addr) (s : State) : (bootStep a s).mem = s.mem := rfl
@[simp] theorem bootStep_memc (a : Addr) (s : State) : (bootStep a s).memc = { s.memc with boot := bootNext a s.memc.boot } := rfl
@[simp] theorem bootStep_vidc (a : Addr) (s : State) : (bootStep a s).vidc = s.vidc := rfl
@[simp] theorem bootStep_ioc (a : Addr) (s : State) : (bootStep a s).ioc = s.ioc := rfl
@[simp] theorem bootStep_coprocs (a : Addr) (s : State) : (bootStep a s).coprocs = s.coprocs := rfl
@[simp] theorem bootStep_devices (a : Addr) (s : State) : (bootStep a s).devices = s.devices := rfl
@[simp] theorem bootStep_free (a : Addr) (s : State) : (bootStep a s).free = s.free := rfl
@[simp] theorem bootStep_inputs (a : Addr) (s : State) : (bootStep a s).inputs = s.inputs := rfl
@[simp] theorem bootStep_midEvents (a : Addr) (s : State) : (bootStep a s).midEvents = s.midEvents := rfl
@[simp] theorem bootStep_cut (a : Addr) (s : State) : (bootStep a s).cut = s.cut := rfl

/-! ## drawWord_state -/

@[simp] theorem drawWord_state_plat (s : State) : ((drawWord s).2).plat = s.plat := rfl
@[simp] theorem drawWord_state_regs (s : State) : ((drawWord s).2).regs = s.regs := rfl
@[simp] theorem drawWord_state_psr (s : State) : ((drawWord s).2).psr = s.psr := rfl
@[simp] theorem drawWord_state_pc (s : State) : ((drawWord s).2).pc = s.pc := rfl
@[simp] theorem drawWord_state_pipe (s : State) : ((drawWord s).2).pipe = s.pipe := rfl
@[simp] theorem drawWord_state_hazard (s : State) : ((drawWord s).2).hazard = s.hazard := rfl
@[simp] theorem drawWord_state_afterCdo (s : State) : ((drawWord s).2).afterCdo = s.afterCdo := rfl
@[simp] theorem drawWord_state_held (s : State) : ((drawWord s).2).held = s.held := rfl
@[simp] theorem drawWord_state_nirq (s : State) : ((drawWord s).2).nirq = s.nirq := rfl
@[simp] theorem drawWord_state_nfirq (s : State) : ((drawWord s).2).nfirq = s.nfirq := rfl
@[simp] theorem drawWord_state_cp15 (s : State) : ((drawWord s).2).cp15 = s.cp15 := rfl
@[simp] theorem drawWord_state_cache (s : State) : ((drawWord s).2).cache = s.cache := rfl
@[simp] theorem drawWord_state_mem (s : State) : ((drawWord s).2).mem = s.mem := rfl
@[simp] theorem drawWord_state_memc (s : State) : ((drawWord s).2).memc = s.memc := rfl
@[simp] theorem drawWord_state_vidc (s : State) : ((drawWord s).2).vidc = s.vidc := rfl
@[simp] theorem drawWord_state_ioc (s : State) : ((drawWord s).2).ioc = s.ioc := rfl
@[simp] theorem drawWord_state_coprocs (s : State) : ((drawWord s).2).coprocs = s.coprocs := rfl
@[simp] theorem drawWord_state_devices (s : State) : ((drawWord s).2).devices = s.devices := rfl
@[simp] theorem drawWord_state_free (s : State) : ((drawWord s).2).free = s.free + 1 := rfl
@[simp] theorem drawWord_state_inputs (s : State) : ((drawWord s).2).inputs = s.inputs := rfl
@[simp] theorem drawWord_state_midEvents (s : State) : ((drawWord s).2).midEvents = s.midEvents := rfl
@[simp] theorem drawWord_state_cut (s : State) : ((drawWord s).2).cut = s.cut := rfl

/-! ## updateCoproc -/

@[simp] theorem updateCoproc_plat (n : Reg) (f : Coproc → Coproc) (s : State) : (updateCoproc n f s).plat = s.plat := rfl
@[simp] theorem updateCoproc_regs (n : Reg) (f : Coproc → Coproc) (s : State) : (updateCoproc n f s).regs = s.regs := rfl
@[simp] theorem updateCoproc_psr (n : Reg) (f : Coproc → Coproc) (s : State) : (updateCoproc n f s).psr = s.psr := rfl
@[simp] theorem updateCoproc_pc (n : Reg) (f : Coproc → Coproc) (s : State) : (updateCoproc n f s).pc = s.pc := rfl
@[simp] theorem updateCoproc_pipe (n : Reg) (f : Coproc → Coproc) (s : State) : (updateCoproc n f s).pipe = s.pipe := rfl
@[simp] theorem updateCoproc_hazard (n : Reg) (f : Coproc → Coproc) (s : State) : (updateCoproc n f s).hazard = s.hazard := rfl
@[simp] theorem updateCoproc_afterCdo (n : Reg) (f : Coproc → Coproc) (s : State) : (updateCoproc n f s).afterCdo = s.afterCdo := rfl
@[simp] theorem updateCoproc_held (n : Reg) (f : Coproc → Coproc) (s : State) : (updateCoproc n f s).held = s.held := rfl
@[simp] theorem updateCoproc_nirq (n : Reg) (f : Coproc → Coproc) (s : State) : (updateCoproc n f s).nirq = s.nirq := rfl
@[simp] theorem updateCoproc_nfirq (n : Reg) (f : Coproc → Coproc) (s : State) : (updateCoproc n f s).nfirq = s.nfirq := rfl
@[simp] theorem updateCoproc_cp15 (n : Reg) (f : Coproc → Coproc) (s : State) : (updateCoproc n f s).cp15 = s.cp15 := rfl
@[simp] theorem updateCoproc_cache (n : Reg) (f : Coproc → Coproc) (s : State) : (updateCoproc n f s).cache = s.cache := rfl
@[simp] theorem updateCoproc_mem (n : Reg) (f : Coproc → Coproc) (s : State) : (updateCoproc n f s).mem = s.mem := rfl
@[simp] theorem updateCoproc_memc (n : Reg) (f : Coproc → Coproc) (s : State) : (updateCoproc n f s).memc = s.memc := rfl
@[simp] theorem updateCoproc_vidc (n : Reg) (f : Coproc → Coproc) (s : State) : (updateCoproc n f s).vidc = s.vidc := rfl
@[simp] theorem updateCoproc_ioc (n : Reg) (f : Coproc → Coproc) (s : State) : (updateCoproc n f s).ioc = s.ioc := rfl
@[simp] theorem updateCoproc_coprocs (n : Reg) (f : Coproc → Coproc) (s : State) : (updateCoproc n f s).coprocs = s.coprocs.map fun c => if c.num = n then f c else c := rfl
@[simp] theorem updateCoproc_devices (n : Reg) (f : Coproc → Coproc) (s : State) : (updateCoproc n f s).devices = s.devices := rfl
@[simp] theorem updateCoproc_free (n : Reg) (f : Coproc → Coproc) (s : State) : (updateCoproc n f s).free = s.free := rfl
@[simp] theorem updateCoproc_inputs (n : Reg) (f : Coproc → Coproc) (s : State) : (updateCoproc n f s).inputs = s.inputs := rfl
@[simp] theorem updateCoproc_midEvents (n : Reg) (f : Coproc → Coproc) (s : State) : (updateCoproc n f s).midEvents = s.midEvents := rfl
@[simp] theorem updateCoproc_cut (n : Reg) (f : Coproc → Coproc) (s : State) : (updateCoproc n f s).cut = s.cut := rfl

/-! ## recordEvent -/

@[simp] theorem recordEvent_plat (n : Reg) (e : CpEvent) (s : State) : (recordEvent n e s).plat = s.plat := rfl
@[simp] theorem recordEvent_regs (n : Reg) (e : CpEvent) (s : State) : (recordEvent n e s).regs = s.regs := rfl
@[simp] theorem recordEvent_psr (n : Reg) (e : CpEvent) (s : State) : (recordEvent n e s).psr = s.psr := rfl
@[simp] theorem recordEvent_pc (n : Reg) (e : CpEvent) (s : State) : (recordEvent n e s).pc = s.pc := rfl
@[simp] theorem recordEvent_pipe (n : Reg) (e : CpEvent) (s : State) : (recordEvent n e s).pipe = s.pipe := rfl
@[simp] theorem recordEvent_hazard (n : Reg) (e : CpEvent) (s : State) : (recordEvent n e s).hazard = s.hazard := rfl
@[simp] theorem recordEvent_afterCdo (n : Reg) (e : CpEvent) (s : State) : (recordEvent n e s).afterCdo = s.afterCdo := rfl
@[simp] theorem recordEvent_held (n : Reg) (e : CpEvent) (s : State) : (recordEvent n e s).held = s.held := rfl
@[simp] theorem recordEvent_nirq (n : Reg) (e : CpEvent) (s : State) : (recordEvent n e s).nirq = s.nirq := rfl
@[simp] theorem recordEvent_nfirq (n : Reg) (e : CpEvent) (s : State) : (recordEvent n e s).nfirq = s.nfirq := rfl
@[simp] theorem recordEvent_cp15 (n : Reg) (e : CpEvent) (s : State) : (recordEvent n e s).cp15 = s.cp15 := rfl
@[simp] theorem recordEvent_cache (n : Reg) (e : CpEvent) (s : State) : (recordEvent n e s).cache = s.cache := rfl
@[simp] theorem recordEvent_mem (n : Reg) (e : CpEvent) (s : State) : (recordEvent n e s).mem = s.mem := rfl
@[simp] theorem recordEvent_memc (n : Reg) (e : CpEvent) (s : State) : (recordEvent n e s).memc = s.memc := rfl
@[simp] theorem recordEvent_vidc (n : Reg) (e : CpEvent) (s : State) : (recordEvent n e s).vidc = s.vidc := rfl
@[simp] theorem recordEvent_ioc (n : Reg) (e : CpEvent) (s : State) : (recordEvent n e s).ioc = s.ioc := rfl
@[simp] theorem recordEvent_coprocs (n : Reg) (e : CpEvent) (s : State) : (recordEvent n e s).coprocs = s.coprocs.map fun c => if c.num = n then { c with log := c.log ++ [e] } else c := rfl
@[simp] theorem recordEvent_devices (n : Reg) (e : CpEvent) (s : State) : (recordEvent n e s).devices = s.devices := rfl
@[simp] theorem recordEvent_free (n : Reg) (e : CpEvent) (s : State) : (recordEvent n e s).free = s.free := rfl
@[simp] theorem recordEvent_inputs (n : Reg) (e : CpEvent) (s : State) : (recordEvent n e s).inputs = s.inputs := rfl
@[simp] theorem recordEvent_midEvents (n : Reg) (e : CpEvent) (s : State) : (recordEvent n e s).midEvents = s.midEvents := rfl
@[simp] theorem recordEvent_cut (n : Reg) (e : CpEvent) (s : State) : (recordEvent n e s).cut = s.cut := rfl

/-! ## separate -/

@[simp] theorem separate_plat (s : State) : (separate s).plat = s.plat := rfl
@[simp] theorem separate_regs (s : State) : (separate s).regs = s.regs := rfl
@[simp] theorem separate_psr (s : State) : (separate s).psr = s.psr := rfl
@[simp] theorem separate_pc (s : State) : (separate s).pc = s.pc := rfl
@[simp] theorem separate_pipe (s : State) : (separate s).pipe = s.pipe := rfl
@[simp] theorem separate_hazard (s : State) : (separate s).hazard = s.hazard := rfl
@[simp] theorem separate_afterCdo (s : State) : (separate s).afterCdo = s.afterCdo := rfl
@[simp] theorem separate_held (s : State) : (separate s).held = s.held := rfl
@[simp] theorem separate_nirq (s : State) : (separate s).nirq = s.nirq := rfl
@[simp] theorem separate_nfirq (s : State) : (separate s).nfirq = s.nfirq := rfl
@[simp] theorem separate_cp15 (s : State) : (separate s).cp15 = s.cp15 := rfl
@[simp] theorem separate_cache (s : State) : (separate s).cache = s.cache := rfl
@[simp] theorem separate_mem (s : State) : (separate s).mem = s.mem := rfl
@[simp] theorem separate_memc (s : State) : (separate s).memc = s.memc := rfl
@[simp] theorem separate_vidc (s : State) : (separate s).vidc = s.vidc := rfl
@[simp] theorem separate_ioc (s : State) : (separate s).ioc = { s.ioc with lastClear := 0, lastGo := 0, coinciding := false } := rfl
@[simp] theorem separate_coprocs (s : State) : (separate s).coprocs = s.coprocs := rfl
@[simp] theorem separate_devices (s : State) : (separate s).devices = s.devices := rfl
@[simp] theorem separate_free (s : State) : (separate s).free = s.free := rfl
@[simp] theorem separate_inputs (s : State) : (separate s).inputs = s.inputs := rfl
@[simp] theorem separate_midEvents (s : State) : (separate s).midEvents = s.midEvents := rfl
@[simp] theorem separate_cut (s : State) : (separate s).cut = s.cut := rfl

/-! ## setTimer -/

@[simp] theorem setTimer_plat (n : Fin 4) (t : Timer) (s : State) : (setTimer n t s).plat = s.plat := rfl
@[simp] theorem setTimer_regs (n : Fin 4) (t : Timer) (s : State) : (setTimer n t s).regs = s.regs := rfl
@[simp] theorem setTimer_psr (n : Fin 4) (t : Timer) (s : State) : (setTimer n t s).psr = s.psr := rfl
@[simp] theorem setTimer_pc (n : Fin 4) (t : Timer) (s : State) : (setTimer n t s).pc = s.pc := rfl
@[simp] theorem setTimer_pipe (n : Fin 4) (t : Timer) (s : State) : (setTimer n t s).pipe = s.pipe := rfl
@[simp] theorem setTimer_hazard (n : Fin 4) (t : Timer) (s : State) : (setTimer n t s).hazard = s.hazard := rfl
@[simp] theorem setTimer_afterCdo (n : Fin 4) (t : Timer) (s : State) : (setTimer n t s).afterCdo = s.afterCdo := rfl
@[simp] theorem setTimer_held (n : Fin 4) (t : Timer) (s : State) : (setTimer n t s).held = s.held := rfl
@[simp] theorem setTimer_nirq (n : Fin 4) (t : Timer) (s : State) : (setTimer n t s).nirq = s.nirq := rfl
@[simp] theorem setTimer_nfirq (n : Fin 4) (t : Timer) (s : State) : (setTimer n t s).nfirq = s.nfirq := rfl
@[simp] theorem setTimer_cp15 (n : Fin 4) (t : Timer) (s : State) : (setTimer n t s).cp15 = s.cp15 := rfl
@[simp] theorem setTimer_cache (n : Fin 4) (t : Timer) (s : State) : (setTimer n t s).cache = s.cache := rfl
@[simp] theorem setTimer_mem (n : Fin 4) (t : Timer) (s : State) : (setTimer n t s).mem = s.mem := rfl
@[simp] theorem setTimer_memc (n : Fin 4) (t : Timer) (s : State) : (setTimer n t s).memc = s.memc := rfl
@[simp] theorem setTimer_vidc (n : Fin 4) (t : Timer) (s : State) : (setTimer n t s).vidc = s.vidc := rfl
@[simp] theorem setTimer_ioc (n : Fin 4) (t : Timer) (s : State) : (setTimer n t s).ioc = { s.ioc with timers := s.ioc.timers.set n t } := rfl
@[simp] theorem setTimer_coprocs (n : Fin 4) (t : Timer) (s : State) : (setTimer n t s).coprocs = s.coprocs := rfl
@[simp] theorem setTimer_devices (n : Fin 4) (t : Timer) (s : State) : (setTimer n t s).devices = s.devices := rfl
@[simp] theorem setTimer_free (n : Fin 4) (t : Timer) (s : State) : (setTimer n t s).free = s.free := rfl
@[simp] theorem setTimer_inputs (n : Fin 4) (t : Timer) (s : State) : (setTimer n t s).inputs = s.inputs := rfl
@[simp] theorem setTimer_midEvents (n : Fin 4) (t : Timer) (s : State) : (setTimer n t s).midEvents = s.midEvents := rfl
@[simp] theorem setTimer_cut (n : Fin 4) (t : Timer) (s : State) : (setTimer n t s).cut = s.cut := rfl

/-! ## updateDevice -/

@[simp] theorem updateDevice_plat (b : BitVec 3) (f : Device → Device) (s : State) : (updateDevice b f s).plat = s.plat := rfl
@[simp] theorem updateDevice_regs (b : BitVec 3) (f : Device → Device) (s : State) : (updateDevice b f s).regs = s.regs := rfl
@[simp] theorem updateDevice_psr (b : BitVec 3) (f : Device → Device) (s : State) : (updateDevice b f s).psr = s.psr := rfl
@[simp] theorem updateDevice_pc (b : BitVec 3) (f : Device → Device) (s : State) : (updateDevice b f s).pc = s.pc := rfl
@[simp] theorem updateDevice_pipe (b : BitVec 3) (f : Device → Device) (s : State) : (updateDevice b f s).pipe = s.pipe := rfl
@[simp] theorem updateDevice_hazard (b : BitVec 3) (f : Device → Device) (s : State) : (updateDevice b f s).hazard = s.hazard := rfl
@[simp] theorem updateDevice_afterCdo (b : BitVec 3) (f : Device → Device) (s : State) : (updateDevice b f s).afterCdo = s.afterCdo := rfl
@[simp] theorem updateDevice_held (b : BitVec 3) (f : Device → Device) (s : State) : (updateDevice b f s).held = s.held := rfl
@[simp] theorem updateDevice_nirq (b : BitVec 3) (f : Device → Device) (s : State) : (updateDevice b f s).nirq = s.nirq := rfl
@[simp] theorem updateDevice_nfirq (b : BitVec 3) (f : Device → Device) (s : State) : (updateDevice b f s).nfirq = s.nfirq := rfl
@[simp] theorem updateDevice_cp15 (b : BitVec 3) (f : Device → Device) (s : State) : (updateDevice b f s).cp15 = s.cp15 := rfl
@[simp] theorem updateDevice_cache (b : BitVec 3) (f : Device → Device) (s : State) : (updateDevice b f s).cache = s.cache := rfl
@[simp] theorem updateDevice_mem (b : BitVec 3) (f : Device → Device) (s : State) : (updateDevice b f s).mem = s.mem := rfl
@[simp] theorem updateDevice_memc (b : BitVec 3) (f : Device → Device) (s : State) : (updateDevice b f s).memc = s.memc := rfl
@[simp] theorem updateDevice_vidc (b : BitVec 3) (f : Device → Device) (s : State) : (updateDevice b f s).vidc = s.vidc := rfl
@[simp] theorem updateDevice_ioc (b : BitVec 3) (f : Device → Device) (s : State) : (updateDevice b f s).ioc = s.ioc := rfl
@[simp] theorem updateDevice_coprocs (b : BitVec 3) (f : Device → Device) (s : State) : (updateDevice b f s).coprocs = s.coprocs := rfl
@[simp] theorem updateDevice_devices (b : BitVec 3) (f : Device → Device) (s : State) : (updateDevice b f s).devices = s.devices.map fun d => if d.bank = b then f d else d := rfl
@[simp] theorem updateDevice_free (b : BitVec 3) (f : Device → Device) (s : State) : (updateDevice b f s).free = s.free := rfl
@[simp] theorem updateDevice_inputs (b : BitVec 3) (f : Device → Device) (s : State) : (updateDevice b f s).inputs = s.inputs := rfl
@[simp] theorem updateDevice_midEvents (b : BitVec 3) (f : Device → Device) (s : State) : (updateDevice b f s).midEvents = s.midEvents := rfl
@[simp] theorem updateDevice_cut (b : BitVec 3) (f : Device → Device) (s : State) : (updateDevice b f s).cut = s.cut := rfl

/-! ## enter -/

@[simp] theorem enter_plat (e : Exc) (s : State) : (enter e s).plat = s.plat := rfl
@[simp] theorem enter_regs (e : Exc) (s : State) : (enter e s).regs = setPhys s.regs (phys e.mode 14#4) (r15Val e.ahead s) := rfl
@[simp] theorem enter_psr (e : Exc) (s : State) : (enter e s).psr = { s.psr with i := true, f := s.psr.f || e.setsF, mode := e.mode } := rfl
@[simp] theorem enter_pc (e : Exc) (s : State) : (enter e s).pc = e.vector := rfl
@[simp] theorem enter_pipe (e : Exc) (s : State) : (enter e s).pipe = [] := rfl
@[simp] theorem enter_hazard (e : Exc) (s : State) : (enter e s).hazard = .none := rfl
@[simp] theorem enter_afterCdo (e : Exc) (s : State) : (enter e s).afterCdo = false := rfl
@[simp] theorem enter_held (e : Exc) (s : State) : (enter e s).held = s.held := rfl
@[simp] theorem enter_nirq (e : Exc) (s : State) : (enter e s).nirq = s.nirq := rfl
@[simp] theorem enter_nfirq (e : Exc) (s : State) : (enter e s).nfirq = s.nfirq := rfl
@[simp] theorem enter_cp15 (e : Exc) (s : State) : (enter e s).cp15 = s.cp15 := rfl
@[simp] theorem enter_cache (e : Exc) (s : State) : (enter e s).cache = s.cache := rfl
@[simp] theorem enter_mem (e : Exc) (s : State) : (enter e s).mem = s.mem := rfl
@[simp] theorem enter_memc (e : Exc) (s : State) : (enter e s).memc = s.memc := rfl
@[simp] theorem enter_vidc (e : Exc) (s : State) : (enter e s).vidc = s.vidc := rfl
@[simp] theorem enter_ioc (e : Exc) (s : State) : (enter e s).ioc = s.ioc := rfl
@[simp] theorem enter_coprocs (e : Exc) (s : State) : (enter e s).coprocs = s.coprocs := rfl
@[simp] theorem enter_devices (e : Exc) (s : State) : (enter e s).devices = s.devices := rfl
@[simp] theorem enter_free (e : Exc) (s : State) : (enter e s).free = s.free + 1 := rfl
@[simp] theorem enter_inputs (e : Exc) (s : State) : (enter e s).inputs = s.inputs := rfl
@[simp] theorem enter_midEvents (e : Exc) (s : State) : (enter e s).midEvents = s.midEvents := rfl
@[simp] theorem enter_cut (e : Exc) (s : State) : (enter e s).cut = s.cut := rfl

/-! ## enterWith -/

@[simp] theorem enterWith_plat (e : Exc) (v : Word) (s : State) : (enterWith e v s).plat = s.plat := rfl
@[simp] theorem enterWith_regs (e : Exc) (v : Word) (s : State) : (enterWith e v s).regs = setPhys s.regs (phys e.mode 14#4) v := rfl
@[simp] theorem enterWith_psr (e : Exc) (v : Word) (s : State) : (enterWith e v s).psr = { s.psr with i := true, f := s.psr.f || e.setsF, mode := e.mode } := rfl
@[simp] theorem enterWith_pc (e : Exc) (v : Word) (s : State) : (enterWith e v s).pc = e.vector := rfl
@[simp] theorem enterWith_pipe (e : Exc) (v : Word) (s : State) : (enterWith e v s).pipe = [] := rfl
@[simp] theorem enterWith_hazard (e : Exc) (v : Word) (s : State) : (enterWith e v s).hazard = .none := rfl
@[simp] theorem enterWith_afterCdo (e : Exc) (v : Word) (s : State) : (enterWith e v s).afterCdo = false := rfl
@[simp] theorem enterWith_held (e : Exc) (v : Word) (s : State) : (enterWith e v s).held = s.held := rfl
@[simp] theorem enterWith_nirq (e : Exc) (v : Word) (s : State) : (enterWith e v s).nirq = s.nirq := rfl
@[simp] theorem enterWith_nfirq (e : Exc) (v : Word) (s : State) : (enterWith e v s).nfirq = s.nfirq := rfl
@[simp] theorem enterWith_cp15 (e : Exc) (v : Word) (s : State) : (enterWith e v s).cp15 = s.cp15 := rfl
@[simp] theorem enterWith_cache (e : Exc) (v : Word) (s : State) : (enterWith e v s).cache = s.cache := rfl
@[simp] theorem enterWith_mem (e : Exc) (v : Word) (s : State) : (enterWith e v s).mem = s.mem := rfl
@[simp] theorem enterWith_memc (e : Exc) (v : Word) (s : State) : (enterWith e v s).memc = s.memc := rfl
@[simp] theorem enterWith_vidc (e : Exc) (v : Word) (s : State) : (enterWith e v s).vidc = s.vidc := rfl
@[simp] theorem enterWith_ioc (e : Exc) (v : Word) (s : State) : (enterWith e v s).ioc = s.ioc := rfl
@[simp] theorem enterWith_coprocs (e : Exc) (v : Word) (s : State) : (enterWith e v s).coprocs = s.coprocs := rfl
@[simp] theorem enterWith_devices (e : Exc) (v : Word) (s : State) : (enterWith e v s).devices = s.devices := rfl
@[simp] theorem enterWith_free (e : Exc) (v : Word) (s : State) : (enterWith e v s).free = s.free + 1 := rfl
@[simp] theorem enterWith_inputs (e : Exc) (v : Word) (s : State) : (enterWith e v s).inputs = s.inputs := rfl
@[simp] theorem enterWith_midEvents (e : Exc) (v : Word) (s : State) : (enterWith e v s).midEvents = s.midEvents := rfl
@[simp] theorem enterWith_cut (e : Exc) (v : Word) (s : State) : (enterWith e v s).cut = s.cut := rfl

end Sys2Proof.Machine
end

