-- ==== Sys2Proof/Laws/Ops.lean ====
section
/-! SUPPORT. One lemma for each shared operation of Ops.lean: conditions, register banks, R15 and the PSR, the ends of an
instruction, and the answer of an access. -/

namespace Sys2Proof.Machine

/-! ## Conditions and ends -/

theorem conditional_pass {c : Cond} {s : State} (h : condPassed c s.psr = true) (run : State → Out) :
    conditional c s run = run s := by simp [conditional, h]

theorem conditional_fail {c : Cond} {s : State} (h : condPassed c s.psr = false) (run : State → Out) :
    conditional c s run = .next (retire (advance s)) := by simp [conditional, h, finish]

/-- Everything a conditional meaning can do. -/
theorem conditional_cases {c : Cond} {s t : State} {run : State → Out} (h : conditional c s run = .next t) :
    (condPassed c s.psr = false ∧ t = retire (advance s)) ∨ (condPassed c s.psr = true ∧ run s = .next t) := by
  cases hc : condPassed c s.psr with
  | false => rw [conditional_fail hc] at h; cases h; exact .inl ⟨rfl, rfl⟩
  | true => rw [conditional_pass hc] at h; exact .inr ⟨rfl, h⟩

/-! ## Registers -/

@[simp] theorem getPhys_setPhys_same (r : RegFile) (p : PhysReg) (v : Word) : getPhys (setPhys r p v) p = v := by
  cases p <;> simp [getPhys, setPhys]

theorem getPhys_setPhys_ne (r : RegFile) {p q : PhysReg} (v : Word) (h : q ≠ p) :
    getPhys (setPhys r p v) q = getPhys r q := by
  cases p <;> cases q <;> simp [getPhys, setPhys] <;>
    (rw [Vector.getElem_set_ne]; intro e; exact h (by rw [Fin.ext e]))

/-- Reading a physical register after a write of one. -/
theorem getPhys_setPhys (r : RegFile) (p q : PhysReg) (v : Word) :
    getPhys (setPhys r p v) q = if q = p then v else getPhys r q := by
  by_cases h : q = p
  · subst h; simp
  · rw [if_neg h, getPhys_setPhys_ne r v h]

/-- Two register files that agree on every physical register are the same. -/
theorem RegFile.ext_getPhys {a b : RegFile} (h : ∀ p, getPhys a p = getPhys b p) : a = b := by
  obtain ⟨au, af, ai, asv⟩ := a
  obtain ⟨bu, bf, bi, bsv⟩ := b
  have hu : au = bu := Vector.ext fun i hi => h (.usr ⟨i, hi⟩)
  have hf : af = bf := Vector.ext fun i hi => h (.fiq ⟨i, hi⟩)
  have hi : ai = bi := Vector.ext fun i hi => h (.irq ⟨i, hi⟩)
  have hs : asv = bsv := Vector.ext fun i hi => h (.svc ⟨i, hi⟩)
  rw [hu, hf, hi, hs]

/-- In one mode, different register numbers from 0 to 14 are different physical registers (R22). -/
theorem phys_inj {m : Mode} {a b : Reg} (ha : a ≠ 15#4) (hb : b ≠ 15#4) (h : phys m a = phys m b) : a = b := by
  have key : ∀ (m : Mode) (a b : Reg), a ≠ 15#4 → b ≠ 15#4 → phys m a = phys m b → a = b := by
    intro m; cases m <;> decide
  exact key m a b ha hb h

theorem readBank_plain {s : State} (h : s.hazard = .none) (pos : Nat) : readBank pos s = s.psr.mode := by
  simp [readBank, h]

theorem writeBank_plain {s : State} (h : s.hazard = .none) (pos : Nat) : writeBank pos s = s.psr.mode := by
  simp [writeBank, h]

/-- Outside a hazard a register reads as its bank in the current mode holds (R22). -/
theorem readReg_plain {s : State} (h : s.hazard = .none) (pos : Nat) (n : Reg) :
    readReg pos n s = getPhys s.regs (phys s.psr.mode n) := by simp [readReg, readBank_plain h]

/-! ## R15 and the PSR -/

@[simp] theorem modeOfBits_modeBits (m : Mode) : modeOfBits (modeBits m) = m := by cases m <;> rfl

theorem pcBits_packR15 (p : Psr) (pc : PcWord) : pcBits (packR15 p pc) = pc := by
  apply BitVec.eq_of_getLsbD_eq
  intro i hi
  simp only [pcBits, packR15, BitVec.getLsbD_extractLsb', BitVec.getLsbD_append]
  simp [hi, show ¬ 2 + i < 2 by omega]

/-- Outside User mode a write of an R15 image gives back the PSR it was made of (R125). -/
theorem writePsr_packR15 {q : Psr} (h : q.mode ≠ .user) (p : Psr) (pc : PcWord) : writePsr (packR15 p pc) q = p := by
  have h0 : field (packR15 p pc) 0 2 = modeBits p.mode := by
    simp (disch := decide) only [packR15, field_append_low]
    simp
  simp only [writePsr, if_neg h, h0, modeOfBits_modeBits]
  obtain ⟨n, z, c, v, i, f, m⟩ := p
  simp (disch := decide) only [packR15, bit_append_high, bit_append_low]
  simp

/-- In User mode a write of the PSR changes the four flags only (R26, R125). -/
theorem writePsr_user {q : Psr} (h : q.mode = .user) (v : Word) :
    (writePsr v q).i = q.i ∧ (writePsr v q).f = q.f ∧ (writePsr v q).mode = .user := by
  simp [writePsr, h]

/-! ## Taking an exception (R451) -/

/-- What entry saves: R14 of the new mode holds the old PSR around the return address. -/
theorem enter_link (e : Exc) (s : State) :
    getPhys (enter e s).regs (phys e.mode 14#4) = r15Val e.ahead s := by simp

/-- Entry changes no other register. -/
theorem enter_other (e : Exc) (s : State) {p : PhysReg} (h : p ≠ phys e.mode 14#4) :
    getPhys (enter e s).regs p = getPhys s.regs p := by simp [getPhys_setPhys, h]

/-! ## The answer of an access -/

@[simp] theorem Bus.bind_done {α β : Type} (v : α) (s : State) (f : α → State → Bus β) : (Bus.done v s).bind f = f v s := rfl
@[simp] theorem Bus.bind_abort {α β : Type} (s : State) (f : α → State → Bus β) : (Bus.abort s).bind f = .abort s := rfl
@[simp] theorem Bus.bind_held {α β : Type} (s : State) (f : α → State → Bus β) : (Bus.held s).bind f = .held s := rfl
@[simp] theorem Bus.bind_refused {α β : Type} (r : Refusal) (f : α → State → Bus β) :
    (Bus.refused r).bind f = .refused r := rfl
@[simp] theorem Bus.out_done {α : Type} (v : α) (s : State) (f : α → State → Out) (g : State → Out) :
    (Bus.done v s).out f g = f v s := rfl
@[simp] theorem Bus.out_abort {α : Type} (s : State) (f : α → State → Out) (g : State → Out) :
    (Bus.abort s).out f g = g s := rfl
@[simp] theorem Bus.out_held {α : Type} (s : State) (f : α → State → Out) (g : State → Out) :
    (Bus.held s).out f g = .next s := rfl
@[simp] theorem Bus.out_refused {α : Type} (r : Refusal) (f : α → State → Out) (g : State → Out) :
    (Bus.refused r).out f g = .refused r := rfl

/-- Everything the end of an instruction after an access can do. -/
theorem Bus.out_cases {α : Type} {b : Bus α} {f : α → State → Out} {g : State → Out} {t : State} (h : b.out f g = .next t) :
    (∃ v u, b = .done v u ∧ f v u = .next t) ∨ (∃ u, b = .abort u ∧ g u = .next t) ∨ b = .held t := by
  cases b with
  | done v u => exact .inl ⟨v, u, rfl, h⟩
  | abort u => exact .inr (.inl ⟨u, rfl, h⟩)
  | held u => simp only [Bus.out_held] at h; cases h; exact .inr (.inr rfl)
  | refused r => cases h

end Sys2Proof.Machine
end

