-- ==== Sys2Proof/Laws/Access.lean ====
section
/-! SUPPORT. What an access leaves alone: a read changes neither the processor nor memory, a write does not change the
processor; and an access that is not answered holds the clocks. -/

namespace Sys2Proof.Machine

theorem SameCore.refl (s : State) : SameCore s s := ⟨rfl, rfl, rfl, rfl, rfl, rfl, rfl, rfl, rfl, id⟩

theorem SameCore.trans {s t u : State} (a : SameCore s t) (b : SameCore t u) : SameCore s u := by
  obtain ⟨a1, a2, a3, a4, a5, a6, a7, a8, a9, a10⟩ := a
  obtain ⟨b1, b2, b3, b4, b5, b6, b7, b8, b9, b10⟩ := b
  constructor
  case cut => exact fun h => b10 (a10 h)
  all_goals simp_all

theorem SameStore.refl (s : State) : SameStore s s := ⟨.refl s, rfl⟩

theorem SameStore.trans {s t u : State} (a : SameStore s t) (b : SameStore t u) : SameStore s u :=
  ⟨a.1.trans b.1, b.2.trans a.2⟩

/-- The rule for going on after an access. -/
theorem leaves_bind {α β : Type} {P : State → Prop} {b : Bus α} {f : α → State → Bus β} (h : leaves P b)
    (g : ∀ v t, b = .done v t → P t → leaves P (f v t)) : leaves P (b.bind f) := by
  cases b with
  | done v t => exact g v t rfl h
  | abort t => exact h
  | held t => exact h
  | refused r => trivial

theorem leaves_mono {α : Type} {P Q : State → Prop} {b : Bus α} (h : leaves P b) (g : ∀ t, P t → Q t) : leaves Q b := by
  cases b with
  | done v t => exact g t h
  | abort t => exact g t h
  | held t => exact g t h
  | refused r => trivial

/-- Going on from a state that has what `s` has. -/
theorem leaves_from {α : Type} {s t : State} {b : Bus α} (a : SameStore s t) (h : leaves (SameStore t) b) :
    leaves (SameStore s) b := leaves_mono h fun _ => a.trans

theorem leaves_core_from {α : Type} {s t : State} {b : Bus α} (a : SameCore s t) (h : leaves (SameCore t) b) :
    leaves (SameCore s) b := leaves_mono h fun _ => a.trans

theorem leaves_core {α : Type} {s : State} {b : Bus α} (h : leaves (SameStore s) b) : leaves (SameCore s) b :=
  leaves_mono h fun _ a => a.1

/-! ## Events -/

theorem drawWord_same (s : State) : SameStore s (drawWord s).2 :=
  ⟨⟨rfl, rfl, rfl, rfl, rfl, rfl, rfl, rfl, rfl, id⟩, rfl⟩

theorem latchEvent_same (k : Fin 5) (s : State) : SameStore s (latchEvent k s) := by
  unfold latchEvent; dsimp only; repeat' split
  all_goals exact ⟨⟨rfl, rfl, rfl, rfl, rfl, rfl, rfl, rfl, rfl, id⟩, rfl⟩

theorem sampleEdges_same (s : State) : SameStore s (sampleEdges s) := by
  have first : ∀ (i : Ioc), SameStore s { s with ioc := i } := fun _ => ⟨⟨rfl, rfl, rfl, rfl, rfl, rfl, rfl, rfl, rfl, id⟩, rfl⟩
  have maybe : ∀ (b : Bool) (k : Fin 5) (t : State), SameStore s t → SameStore s (if b then latchEvent k t else t) := by
    intro b k t h; split
    · exact h.trans (latchEvent_same k t)
    · exact h
  unfold sampleEdges; dsimp only; split
  · exact ⟨⟨rfl, rfl, rfl, rfl, rfl, rfl, rfl, rfl, rfl, id⟩, rfl⟩
  · exact maybe _ _ _ (maybe _ _ _ (first _))

theorem received_same (b : Byte) (s : State) : SameStore s (received b s) := by
  unfold received
  cases s.ioc.rxDoubtful <;> exact ⟨⟨rfl, rfl, rfl, rfl, rfl, rfl, rfl, rfl, rfl, id⟩, rfl⟩

theorem clockRx_same (s : State) : SameStore s (clockRx s) := by
  have first : ∀ (i : Ioc), SameStore s { s with ioc := i } := fun _ => ⟨⟨rfl, rfl, rfl, rfl, rfl, rfl, rfl, rfl, rfl, id⟩, rfl⟩
  unfold clockRx; split
  · exact SameStore.refl s
  · dsimp only; split
    · exact (first _).trans (received_same _ _)
    · exact first _

theorem reloadEvent_same (n : Fin 4) (s : State) : SameStore s (reloadEvent n s) := by
  have first : ∀ (i : Ioc), SameStore s { s with ioc := i } := fun _ => ⟨⟨rfl, rfl, rfl, rfl, rfl, rfl, rfl, rfl, rfl, id⟩, rfl⟩
  unfold reloadEvent; repeat' split
  · exact latchEvent_same 3 s
  · exact latchEvent_same 4 s
  · exact first _
  · exact (first _).trans (clockRx_same _)

theorem setTimer_same (n : Fin 4) (t : Timer) (s : State) : SameStore s (setTimer n t s) :=
  ⟨⟨rfl, rfl, rfl, rfl, rfl, rfl, rfl, rfl, rfl, id⟩, rfl⟩

theorem underflow_same (n : Fin 4) (s : State) : SameStore s (underflow n s) := by
  unfold underflow; dsimp only; repeat' split
  · exact (drawWord_same s).trans (reloadEvent_same n _)
  · exact drawWord_same s
  · exact reloadEvent_same n s

theorem tickTimer_same (n : Fin 4) (s : State) : SameStore s (tickTimer n s) := by
  unfold tickTimer; dsimp only; repeat' split
  all_goals first
    | exact setTimer_same n _ s
    | exact (setTimer_same n _ s).trans (underflow_same n _)

theorem separate_same (s : State) : SameStore s (separate s) :=
  ⟨⟨rfl, rfl, rfl, rfl, rfl, rfl, rfl, rfl, rfl, id⟩, rfl⟩

theorem ticks_same (n : Nat) (s : State) : SameStore s (ticks n s) := by
  induction n generalizing s with
  | zero => exact SameStore.refl s
  | succ n ih =>
    refine SameStore.trans ?_ (ih _)
    refine SameStore.trans ?_ (separate_same _)
    exact (((tickTimer_same 0 s).trans (tickTimer_same 1 _)).trans (tickTimer_same 2 _)).trans (tickTimer_same 3 _)

theorem setFlbk_same (b : Bool) (s : State) : SameStore s (setFlbk b s) :=
  ⟨⟨rfl, rfl, rfl, rfl, rfl, rfl, rfl, rfl, rfl, id⟩, rfl⟩

theorem startRaster_same (s : State) : SameStore s (startRaster s) := by
  have first : ∀ (v : Vidc), SameStore s { s with vidc := v } := fun _ => ⟨⟨rfl, rfl, rfl, rfl, rfl, rfl, rfl, rfl, rfl, id⟩, rfl⟩
  unfold startRaster; dsimp only; repeat' split
  all_goals first
    | exact SameStore.refl s
    | exact first _
    | exact (first _).trans (setFlbk_same _ _)
    | exact ((first _).trans (drawWord_same _)).trans (setFlbk_same _ _)

theorem physWord_same (pa : Nat) (s : State) : SameStore s (physWord pa s).2 := by
  unfold physWord; split
  · exact SameStore.refl s
  · exact drawWord_same s

theorem physBlock_same (p : BitVec 15) (s : State) : SameStore s (physBlock p s).2 :=
  (((physWord_same _ s).trans (physWord_same _ _)).trans (physWord_same _ _)).trans (physWord_same _ _)

theorem SameStore.chips {s t : State} (h : SameStore s t) (m : Memc) (v : Vidc) :
    SameStore s { t with memc := m, vidc := v } := h.trans ⟨⟨rfl, rfl, rfl, rfl, rfl, rfl, rfl, rfl, rfl, id⟩, rfl⟩

/-- A DMA burst writes no memory (R321). -/
theorem videoDma_same (s : State) : SameStore s (videoDma s) := by
  unfold videoDma; split
  · have h := physBlock_same s.memc.vptr s
    revert h; generalize physBlock s.memc.vptr s = p; intro h; exact h.chips _ _
  · exact SameStore.refl s

theorem cursorDma_same (s : State) : SameStore s (cursorDma s) := by
  unfold cursorDma; split
  · have h := physBlock_same s.memc.cptr s
    revert h; generalize physBlock s.memc.cptr s = p; intro h; exact h.chips _ _
  · exact SameStore.refl s

theorem soundDma_same (s : State) : SameStore s (soundDma s) := by
  unfold soundDma; split
  · have h := physBlock_same s.memc.sptr s
    revert h; generalize physBlock s.memc.sptr s = p; intro h; exact h.chips _ _
  · exact SameStore.refl s

theorem applyEvent_same (e : EnvEvent) (s : State) : SameStore s (applyEvent e s) := by
  have vidc : ∀ (f : Vidc → Vidc), SameStore s (onVidc f s) := by
    intro f; unfold onVidc; split
    · exact ⟨⟨rfl, rfl, rfl, rfl, rfl, rfl, rfl, rfl, rfl, id⟩, rfl⟩
    · exact SameStore.refl s
  cases e <;> dsimp only [applyEvent]
  case ticks n => split; exacts [ticks_same n s, SameStore.refl s]
  case pin => exact ⟨⟨rfl, rfl, rfl, rfl, rfl, rfl, rfl, rfl, rfl, id⟩, rfl⟩
  case cpuPins => exact ⟨⟨rfl, rfl, rfl, rfl, rfl, rfl, rfl, rfl, rfl, id⟩, rfl⟩
  case kartFrame b =>
    split
    · unfold kartFrame; split
      · exact SameStore.refl s
      · exact ⟨⟨rfl, rfl, rfl, rfl, rfl, rfl, rfl, rfl, rfl, id⟩, rfl⟩
    · exact SameStore.refl s
  case coincide => exact ⟨⟨rfl, rfl, rfl, rfl, rfl, rfl, rfl, rfl, rfl, id⟩, rfl⟩
  case raster => split; exacts [startRaster_same s, SameStore.refl s]
  case soundSample =>
    split
    · unfold soundSample; dsimp only; repeat' split
      all_goals first
        | exact SameStore.refl s
        | exact ⟨⟨rfl, rfl, rfl, rfl, rfl, rfl, rfl, rfl, rfl, id⟩, rfl⟩
    · exact SameStore.refl s
  case sink =>
    split
    · unfold sinkPulse; split
      · exact ⟨⟨rfl, rfl, rfl, rfl, rfl, rfl, rfl, rfl, rfl, id⟩, rfl⟩
      · exact SameStore.refl s
    · exact SameStore.refl s
  case flbkLevel b => split; exacts [setFlbk_same b s, SameStore.refl s]
  case videoDma => exact videoDma_same s
  case cursorDma => exact cursorDma_same s
  case soundDma => exact soundDma_same s
  case refreshTick =>
    unfold refreshTick; split
    · exact ⟨⟨rfl, rfl, rfl, rfl, rfl, rfl, rfl, rfl, rfl, id⟩, rfl⟩
    · exact SameStore.refl s
  case dropLine => exact ⟨⟨rfl, rfl, rfl, rfl, rfl, rfl, rfl, rfl, rfl, id⟩, rfl⟩
  all_goals exact vidc _

theorem chooseBurst_same (before s : State) : SameStore s (chooseBurst before s) := by
  unfold chooseBurst; split
  · exact ⟨⟨rfl, rfl, rfl, rfl, rfl, rfl, rfl, rfl, rfl, id⟩, rfl⟩
  · exact SameStore.refl s

theorem followCinit_same (s : State) : SameStore s (followCinit s) := by
  unfold followCinit; split
  · exact ⟨⟨rfl, rfl, rfl, rfl, rfl, rfl, rfl, rfl, rfl, id⟩, rfl⟩
  · exact SameStore.refl s

/-- What the outside and the other agents do changes neither the processor nor memory. -/
theorem applyEvents_same (es : List EnvEvent) (s : State) : SameStore s (applyEvents es s) := by
  induction es generalizing s with
  | nil => exact (followCinit_same s).trans (separate_same _)
  | cons e es ih => exact (((applyEvent_same e s).trans (chooseBurst_same s _)).trans (sampleEdges_same _)).trans (ih _)

theorem takeBatch_same (s : State) : SameStore s (takeBatch s) := by
  have first : ∀ (m : List (List EnvEvent)), SameStore s { s with midEvents := m } := fun _ => ⟨⟨rfl, rfl, rfl, rfl, rfl, rfl, rfl, rfl, rfl, id⟩, rfl⟩
  unfold takeBatch; split
  · exact separate_same s
  · exact (first _).trans (applyEvents_same _ _)

/-- The start of an access changes neither the processor nor memory. -/
theorem startAccess_same (s : State) : leaves (SameStore s) (startAccess s) := by
  unfold startAccess; split
  · exact takeBatch_same s
  · exact SameStore.refl s
  · next n h =>
    have cut : SameStore s { s with cut := some n } :=
      ⟨⟨rfl, rfl, rfl, rfl, rfl, rfl, rfl, rfl, rfl, fun e => by rw [e] at h; cases h⟩, rfl⟩
    exact cut.trans (takeBatch_same _)

/-- An access that nothing cuts begins, whatever other agents do before it. -/
theorem startAccess_uncut {s : State} (h : s.cut = none) : startAccess s = .done () (takeBatch s) := by
  simp [startAccess, h]

/-! ## Reads -/

theorem bootStep_same (a : Addr) (s : State) : SameStore s (bootStep a s) :=
  ⟨⟨rfl, rfl, rfl, rfl, rfl, rfl, rfl, rfl, rfl, id⟩, rfl⟩

theorem hold_same (r : HoldReason) (s : State) : SameStore s (hold r s) :=
  ⟨⟨rfl, rfl, rfl, rfl, rfl, rfl, rfl, rfl, rfl, id⟩, rfl⟩

theorem ramTarget_same (pa : Nat) (s : State) : leaves (SameStore s) (ramTarget pa s) := by
  unfold ramTarget; split
  · exact SameStore.refl s
  · trivial

theorem logicalTarget_same (w : Bool) (a : Addr) (tr : Bool) (s : State) :
    leaves (SameStore s) (logicalTarget w a tr s) := by
  unfold logicalTarget; dsimp only; split
  · exact SameStore.refl s
  · split
    · exact ramTarget_same _ _
    · exact SameStore.refl s
  · split
    · exact drawWord_same s
    · exact leaves_from (drawWord_same s) (ramTarget_same _ _)

/-- The decode of an access changes neither the processor nor memory. -/
theorem busTarget_same (w : Bool) (a : Addr) (tr : Bool) (s : State) : leaves (SameStore s) (busTarget w a tr s) := by
  unfold busTarget
  split
  · unfold memcTarget; dsimp only
    have hb := bootStep_same a s
    have refl : ∀ x : Target, leaves (SameStore s) (Bus.done x (bootStep a s)) := fun _ => hb
    repeat' split
    all_goals first
      | exact hb
      | exact leaves_from hb (logicalTarget_same _ _ _ _)
      | exact leaves_from hb (ramTarget_same _ _)
  · exact SameStore.refl s

theorem readIocRegister_same (r : BitVec 5) (s : State) : SameStore s (readIocRegister r s).2 := by
  unfold readIocRegister readTimer readIocControl readSerial readNothing
  dsimp only
  repeat' split
  all_goals first
    | exact SameStore.refl s
    | exact drawWord_same s
    | exact ⟨⟨rfl, rfl, rfl, rfl, rfl, rfl, rfl, rfl, rfl, id⟩, rfl⟩

theorem deviceRead_same (b : BitVec 3) (ty : BitVec 2) (a : Addr) (s : State) : SameStore s (deviceRead b ty a s).2 := by
  have update : ∀ (f : Device → Device) (t : State), SameStore t (updateDevice b f t) := fun _ _ => ⟨⟨rfl, rfl, rfl, rfl, rfl, rfl, rfl, rfl, rfl, id⟩, rfl⟩
  unfold deviceRead; dsimp only; split
  · exact update _ s
  · exact (drawWord_same s).trans (update _ _)

theorem ioRead_same (a : Addr) (s : State) : leaves (SameStore s) (ioRead a s) := by
  unfold ioRead; dsimp only; split
  · exact hold_same _ s
  · split
    · exact (readIocRegister_same _ s).trans (drawWord_same _)
    · exact deviceRead_same _ _ _ s

/-- An external read changes neither the processor nor memory. -/
theorem extRead_same (a : Addr) (tr : Bool) (s : State) : leaves (SameStore s) (extRead a tr s) := by
  unfold extRead
  refine leaves_bind (startAccess_same s) fun _ u _ hu => ?_
  refine leaves_bind (leaves_from hu (busTarget_same _ _ _ u)) fun x t _ h => ?_
  cases x <;> dsimp only
  case memory => exact h
  case io =>
    exact leaves_bind (leaves_from h (ioRead_same a t)) fun w u _ g => g.trans (sampleEdges_same u)
  all_goals exact h

theorem insertLine_same (l : CacheLine) (s : State) : SameStore s (insertLine l s) := by
  unfold insertLine; dsimp only; split <;> exact ⟨⟨rfl, rfl, rfl, rfl, rfl, rfl, rfl, rfl, rfl, id⟩, rfl⟩

theorem lineFetch_same (a : Addr) (tr : Bool) (s : State) : leaves (SameStore s) (lineFetch a tr s) := by
  have later : ∀ (b : Addr) (t : State), leaves (SameStore t)
      (match extRead b tr t with
        | .done w s => .done w s
        | .abort s => let (w, s) := drawWord s; .done w s
        | .held s => .held s
        | .refused r => .refused r) := by
    intro b t
    have h := extRead_same b tr t
    cases e : extRead b tr t <;> rw [e] at h
    case done => exact h
    case abort => exact SameStore.trans h (drawWord_same _)
    case held => exact h
    case refused => trivial
  unfold lineFetch
  refine leaves_bind (extRead_same _ _ _) fun w0 t _ h0 => ?_
  refine leaves_bind (leaves_from h0 (later _ t)) fun w1 t1 _ h1 => ?_
  refine leaves_bind (leaves_from h1 (later _ t1)) fun w2 t2 _ h2 => ?_
  refine leaves_bind (leaves_from h2 (later _ t2)) fun w3 t3 _ h3 => ?_
  exact h3.trans (insertLine_same _ t3)

/-- A read changes neither the processor nor memory, whatever it answers. -/
theorem memRead_same (a : Addr) (tr : Bool) (s : State) : leaves (SameStore s) (memRead a tr s) := by
  unfold memRead
  repeat' split
  all_goals first
    | exact SameStore.refl s
    | exact lineFetch_same _ _ _
    | exact extRead_same _ _ _

/-! ## Writes -/

theorem ioWrite_core (a : Addr) (d : Word) (s : State) : leaves (SameCore s) (ioWrite a d s) := by
  unfold ioWrite writeIocRegister writeTimer goTimer
  dsimp only
  repeat' split
  all_goals first
    | exact (hold_same _ s).1
    | exact SameCore.refl s
    | exact ⟨rfl, rfl, rfl, rfl, rfl, rfl, rfl, rfl, rfl, id⟩

theorem setPageSize_core (c : BitVec 2) (s : State) : SameCore s (setPageSize c s) := by
  unfold setPageSize scrambleTranslator; split <;> exact ⟨rfl, rfl, rfl, rfl, rfl, rfl, rfl, rfl, rfl, id⟩

theorem writeMemcRegister_core (a : Addr) (s : State) : leaves (SameCore s) (writeMemcRegister a s) := by
  unfold writeMemcRegister; dsimp only
  split
  case h_8 =>
    unfold writeMemcControl; dsimp only
    split
    · exact (setPageSize_core (field a 2 2) s).trans ⟨rfl, rfl, rfl, rfl, rfl, rfl, rfl, rfl, rfl, id⟩
    · exact (setPageSize_core (field a 2 2) s).trans ⟨rfl, rfl, rfl, rfl, rfl, rfl, rfl, rfl, rfl, id⟩
  all_goals exact ⟨rfl, rfl, rfl, rfl, rfl, rfl, rfl, rfl, rfl, id⟩

theorem writeTranslator_core (a : Addr) (s : State) : leaves (SameCore s) (writeTranslator a s) := by
  unfold writeTranslator; dsimp only; split
  · trivial
  · exact ⟨rfl, rfl, rfl, rfl, rfl, rfl, rfl, rfl, rfl, id⟩

theorem writeVidc_core (d : Word) (s : State) : leaves (SameCore s) (writeVidc d s) := by
  unfold writeVidc; dsimp only
  repeat' split
  all_goals first
    | trivial
    | exact ⟨rfl, rfl, rfl, rfl, rfl, rfl, rfl, rfl, rfl, id⟩

theorem extWrite_core (a : Addr) (z : Size) (d : Word) (tr : Bool) (s : State) :
    leaves (SameCore s) (extWrite a z d tr s) := by
  unfold extWrite
  refine leaves_bind (leaves_core (startAccess_same s)) fun _ u _ hu => ?_
  refine leaves_bind (leaves_core_from hu (leaves_core (busTarget_same _ _ _ u))) fun x t _ h => ?_
  cases x <;> dsimp only
  case memory => cases z <;> exact h.trans ⟨rfl, rfl, rfl, rfl, rfl, rfl, rfl, rfl, rfl, id⟩
  case bootRam => exact h.trans ⟨rfl, rfl, rfl, rfl, rfl, rfl, rfl, rfl, rfl, id⟩
  case io => exact leaves_bind (leaves_core_from h (ioWrite_core _ _ _)) fun _ u _ g => g.trans (sampleEdges_same u).1
  case vidc =>
    split
    · exact leaves_bind (leaves_core_from h (writeVidc_core _ _)) fun _ u _ g => g.trans (sampleEdges_same u).1
    · exact h
  case register =>
    exact leaves_bind (leaves_core_from h (writeMemcRegister_core _ _)) fun _ u _ g => g.trans (sampleEdges_same u).1
  case translator => exact leaves_bind (leaves_core_from h (writeTranslator_core _ _)) fun _ u _ g => g

theorem cacheWrite_core (a : Addr) (z : Size) (d : Word) (tr ab : Bool) (s : State) :
    SameCore s (cacheWrite a z d tr ab s) := by
  unfold cacheWrite; repeat' split
  all_goals exact ⟨rfl, rfl, rfl, rfl, rfl, rfl, rfl, rfl, rfl, id⟩

theorem overlapPrefetch_core (a : Addr) (z : Size) (d : Word) (s : State) : SameCore s (overlapPrefetch a z d s) := by
  unfold overlapPrefetch; split <;> exact ⟨rfl, rfl, rfl, rfl, rfl, rfl, rfl, rfl, rfl, id⟩

/-- A write does not change the processor, whatever it answers. -/
theorem memWrite_core (a : Addr) (z : Size) (d : Word) (tr : Bool) (s : State) :
    leaves (SameCore s) (memWrite a z d tr s) := by
  have h := extWrite_core a z d tr s
  unfold memWrite
  cases e : extWrite a z d tr s <;> rw [e] at h <;> dsimp only
  case done b t =>
    split
    · exact SameCore.trans h ((cacheWrite_core _ _ _ _ _ _).trans (overlapPrefetch_core _ _ _ _))
    · exact SameCore.trans h (cacheWrite_core _ _ _ _ _ _)
  case abort => exact SameCore.trans h (cacheWrite_core _ _ _ _ _ _)
  case held => exact h
  case refused => trivial

/-! ## Held clocks -/

/-- An access answers `held` only with the clocks held. -/
def heldOnly {α : Type} (b : Bus α) : Prop := ∀ t, b = .held t → t.held ≠ none

theorem heldOnly_done {α : Type} (v : α) (s : State) : heldOnly (.done v s) := fun _ h => nomatch h
theorem heldOnly_abort {α : Type} (s : State) : heldOnly (.abort s : Bus α) := fun _ h => nomatch h
theorem heldOnly_refused {α : Type} (r : Refusal) : heldOnly (.refused r : Bus α) := fun _ h => nomatch h
theorem heldOnly_hold {α : Type} (r : HoldReason) (s : State) : heldOnly (.held (hold r s) : Bus α) := by
  rintro t ⟨⟩; simp [hold]

/-- The rule for going on after an access. -/
theorem heldOnly_bind {α β : Type} {b : Bus α} {f : α → State → Bus β} (h : heldOnly b)
    (g : ∀ v t, b = .done v t → heldOnly (f v t)) : heldOnly (b.bind f) := by
  cases b with
  | done v t => exact g v t rfl
  | abort t => exact heldOnly_abort t
  | held t => rintro u ⟨⟩; exact h t rfl
  | refused r => exact heldOnly_refused r

theorem ramTarget_heldOnly (pa : Nat) (s : State) : heldOnly (ramTarget pa s) := by
  unfold ramTarget; split <;> rintro t ⟨⟩

theorem busTarget_heldOnly (w : Bool) (a : Addr) (tr : Bool) (s : State) : heldOnly (busTarget w a tr s) := by
  unfold busTarget memcTarget logicalTarget; dsimp only
  repeat' split
  all_goals first
    | exact ramTarget_heldOnly _ _
    | rintro t ⟨⟩

theorem ioRead_heldOnly (a : Addr) (s : State) : heldOnly (ioRead a s) := by
  unfold ioRead; dsimp only; repeat' split
  all_goals first
    | exact heldOnly_hold _ _
    | rintro t ⟨⟩

theorem ioWrite_heldOnly (a : Addr) (d : Word) (s : State) : heldOnly (ioWrite a d s) := by
  unfold ioWrite; dsimp only; repeat' split
  all_goals first
    | exact heldOnly_hold _ _
    | rintro t ⟨⟩

theorem writeMemcRegister_heldOnly (a : Addr) (s : State) : heldOnly (writeMemcRegister a s) := by
  unfold writeMemcRegister writeMemcControl; dsimp only; repeat' split
  all_goals first
    | exact heldOnly_hold _ _
    | rintro t ⟨⟩

theorem writeTranslator_heldOnly (a : Addr) (s : State) : heldOnly (writeTranslator a s) := by
  unfold writeTranslator; dsimp only; repeat' split
  all_goals rintro t ⟨⟩

theorem writeVidc_heldOnly (d : Word) (s : State) : heldOnly (writeVidc d s) := by
  unfold writeVidc; dsimp only; repeat' split
  all_goals rintro t ⟨⟩

theorem extRead_heldOnly (a : Addr) (tr : Bool) {s : State} (h : s.cut = none) : heldOnly (extRead a tr s) := by
  rw [extRead, startAccess_uncut h, Bus.bind_done]
  refine heldOnly_bind (busTarget_heldOnly _ _ _ _) fun x t _ => ?_
  cases x
  case io => exact heldOnly_bind (ioRead_heldOnly _ _) fun _ _ _ => heldOnly_done _ _
  all_goals rintro t ⟨⟩

theorem extWrite_heldOnly (a : Addr) (z : Size) (d : Word) (tr : Bool) {s : State} (h : s.cut = none) :
    heldOnly (extWrite a z d tr s) := by
  rw [extWrite, startAccess_uncut h, Bus.bind_done]
  refine heldOnly_bind (busTarget_heldOnly _ _ _ _) fun x t _ => ?_
  cases x <;> dsimp only
  case io => exact heldOnly_bind (ioWrite_heldOnly _ _ _) fun _ _ _ => heldOnly_done _ _
  case vidc =>
    split
    · exact heldOnly_bind (writeVidc_heldOnly _ _) fun _ _ _ => heldOnly_done _ _
    · exact heldOnly_done _ _
  case register => exact heldOnly_bind (writeMemcRegister_heldOnly _ _) fun _ _ _ => heldOnly_done _ _
  case translator => exact heldOnly_bind (writeTranslator_heldOnly _ _) fun _ _ _ => heldOnly_done _ _
  all_goals rintro t ⟨⟩

/-- A read of an instruction that no reset has cut answers `held` only with the clocks held. -/
theorem memRead_heldOnly (a : Addr) (tr : Bool) {s : State} (h : s.cut = none) : heldOnly (memRead a tr s) := by
  have later : ∀ (b : Addr) (t : State), t.cut = none →
      heldOnly (match extRead b tr t with
        | .done w s => .done w s
        | .abort s => let (w, s) := drawWord s; .done w s
        | .held s => .held s
        | .refused r => .refused r : Bus Word) ∧
      leaves (SameStore t) (match extRead b tr t with
        | .done w s => .done w s
        | .abort s => let (w, s) := drawWord s; .done w s
        | .held s => .held s
        | .refused r => .refused r : Bus Word) := by
    intro b t ht
    have k := extRead_heldOnly b tr ht
    have l := extRead_same b tr t
    cases e : extRead b tr t <;> rw [e] at k l
    · exact ⟨heldOnly_done _ _, l⟩
    · exact ⟨heldOnly_done _ _, l.trans (drawWord_same _)⟩
    · exact ⟨fun u hu => by cases hu; exact k _ rfl, l⟩
    · exact ⟨heldOnly_refused _, trivial⟩
  have cutOf : ∀ {b : Bus Word} {t u : State} {w : Word}, t.cut = none → leaves (SameStore t) b → b = .done w u →
      u.cut = none := by
    rintro b t u w ht l rfl
    exact l.1.cut ht
  unfold memRead; repeat' split
  · exact heldOnly_done _ _
  · unfold lineFetch
    refine heldOnly_bind (extRead_heldOnly _ _ h) fun w0 s0 e0 => ?_
    have h0 := cutOf h (extRead_same _ _ _) e0
    refine heldOnly_bind (later _ _ h0).1 fun w1 s1 e1 => ?_
    have h1 := cutOf h0 (later _ _ h0).2 e1
    refine heldOnly_bind (later _ _ h1).1 fun w2 s2 e2 => ?_
    have h2 := cutOf h1 (later _ _ h1).2 e2
    exact heldOnly_bind (later _ _ h2).1 fun w3 s3 e3 => heldOnly_done _ _
  · exact extRead_heldOnly _ _ h
  · exact extRead_heldOnly _ _ h

/-- A write of an instruction that no reset has cut answers `held` only with the clocks held. -/
theorem memWrite_heldOnly (a : Addr) (z : Size) (d : Word) (tr : Bool) {s : State} (h : s.cut = none) :
    heldOnly (memWrite a z d tr s) := by
  have k := extWrite_heldOnly a z d tr h
  unfold memWrite
  cases e : extWrite a z d tr s <;> rw [e] at k <;> dsimp only
  case held => exact fun u hu => by cases hu; exact k _ rfl
  all_goals rintro t ⟨⟩

end Sys2Proof.Machine
end

