-- ==== Sys2Proof/Laws/PerInstr.lean ====
section
/-! SUPPORT. The family Encodes: bits 31:28 of the word of an instruction are its condition (R71, R72), one lemma per
constructor. -/

namespace Sys2Proof.Laws

/-- Bits 31:28 of the word of an instruction are its condition (R71, R72). -/
theorem encode_cond (i : Instr) : condOfCode (field (encode i) 28 4) = i.cond := by
  cases i <;>
    simp (disch := decide) only [encode, encodeDataProcessing, encodeSingleTransfer, encodeBlockTransfer,
      encodeCoprocTransfer, encodeRegisterTransfer, field, field_append_high, Instr.cond] <;>
    simp [condOfCode_condCode]

end Sys2Proof.Laws

namespace Sys2Proof.Laws.Encodes

/-- Bits 31:28 of the encoded word give the condition. -/
def Statement (i : Instr) : Prop := condOfCode (field (encode i) 28 4) = i.cond

theorem and (c : Cond) (sb : Bool) (rn rd : Reg) (op2 : Op2) : Statement (.and c sb rn rd op2) :=
  encode_cond _

theorem eor (c : Cond) (sb : Bool) (rn rd : Reg) (op2 : Op2) : Statement (.eor c sb rn rd op2) :=
  encode_cond _

theorem sub (c : Cond) (sb : Bool) (rn rd : Reg) (op2 : Op2) : Statement (.sub c sb rn rd op2) :=
  encode_cond _

theorem rsb (c : Cond) (sb : Bool) (rn rd : Reg) (op2 : Op2) : Statement (.rsb c sb rn rd op2) :=
  encode_cond _

theorem add (c : Cond) (sb : Bool) (rn rd : Reg) (op2 : Op2) : Statement (.add c sb rn rd op2) :=
  encode_cond _

theorem adc (c : Cond) (sb : Bool) (rn rd : Reg) (op2 : Op2) : Statement (.adc c sb rn rd op2) :=
  encode_cond _

theorem sbc (c : Cond) (sb : Bool) (rn rd : Reg) (op2 : Op2) : Statement (.sbc c sb rn rd op2) :=
  encode_cond _

theorem rsc (c : Cond) (sb : Bool) (rn rd : Reg) (op2 : Op2) : Statement (.rsc c sb rn rd op2) :=
  encode_cond _

theorem tst (c : Cond) (sb : Bool) (rn rd : Reg) (op2 : Op2) : Statement (.tst c sb rn rd op2) :=
  encode_cond _

theorem teq (c : Cond) (sb : Bool) (rn rd : Reg) (op2 : Op2) : Statement (.teq c sb rn rd op2) :=
  encode_cond _

theorem cmp (c : Cond) (sb : Bool) (rn rd : Reg) (op2 : Op2) : Statement (.cmp c sb rn rd op2) :=
  encode_cond _

theorem cmn (c : Cond) (sb : Bool) (rn rd : Reg) (op2 : Op2) : Statement (.cmn c sb rn rd op2) :=
  encode_cond _

theorem orr (c : Cond) (sb : Bool) (rn rd : Reg) (op2 : Op2) : Statement (.orr c sb rn rd op2) :=
  encode_cond _

theorem mov (c : Cond) (sb : Bool) (rn rd : Reg) (op2 : Op2) : Statement (.mov c sb rn rd op2) :=
  encode_cond _

theorem bic (c : Cond) (sb : Bool) (rn rd : Reg) (op2 : Op2) : Statement (.bic c sb rn rd op2) :=
  encode_cond _

theorem mvn (c : Cond) (sb : Bool) (rn rd : Reg) (op2 : Op2) : Statement (.mvn c sb rn rd op2) :=
  encode_cond _

theorem mul (c : Cond) (sb : Bool) (rd rn rs rm : Reg) : Statement (.mul c sb rd rn rs rm) :=
  encode_cond _

theorem mla (c : Cond) (sb : Bool) (rd rn rs rm : Reg) : Statement (.mla c sb rd rn rs rm) :=
  encode_cond _

theorem mulSpace (c : Cond) (hi : BitVec 16) (mid : BitVec 2) (lo : BitVec 4) : Statement (.mulSpace c hi mid lo) :=
  encode_cond _

theorem swp (c : Cond) (rn rd rm : Reg) : Statement (.swp c rn rd rm) :=
  encode_cond _

theorem swpb (c : Cond) (rn rd rm : Reg) : Statement (.swpb c rn rd rm) :=
  encode_cond _

theorem ldr (c : Cond) (p u w : Bool) (rn rd : Reg) (off : Offset) : Statement (.ldr c p u w rn rd off) :=
  encode_cond _

theorem ldrb (c : Cond) (p u w : Bool) (rn rd : Reg) (off : Offset) : Statement (.ldrb c p u w rn rd off) :=
  encode_cond _

theorem str (c : Cond) (p u w : Bool) (rn rd : Reg) (off : Offset) : Statement (.str c p u w rn rd off) :=
  encode_cond _

theorem strb (c : Cond) (p u w : Bool) (rn rd : Reg) (off : Offset) : Statement (.strb c p u w rn rd off) :=
  encode_cond _

theorem stm (c : Cond) (p u sb w : Bool) (rn : Reg) (list : BitVec 16) : Statement (.stm c p u sb w rn list) :=
  encode_cond _

theorem ldm (c : Cond) (p u sb w : Bool) (rn : Reg) (list : BitVec 16) : Statement (.ldm c p u sb w rn list) :=
  encode_cond _

theorem b (c : Cond) (off : BitVec 24) : Statement (.b c off) :=
  encode_cond _

theorem bl (c : Cond) (off : BitVec 24) : Statement (.bl c off) :=
  encode_cond _

theorem stc (c : Cond) (p u n w : Bool) (rn crd cp : Reg) (off : BitVec 8) : Statement (.stc c p u n w rn crd cp off) :=
  encode_cond _

theorem ldc (c : Cond) (p u n w : Bool) (rn crd cp : Reg) (off : BitVec 8) : Statement (.ldc c p u n w rn crd cp off) :=
  encode_cond _

theorem cdo (c : Cond) (opc : BitVec 4) (crn crd cp : Reg) (aux : BitVec 3) (crm : Reg) : Statement (.cdo c opc crn crd cp aux crm) :=
  encode_cond _

theorem mcr (c : Cond) (opc : BitVec 3) (crn rd cp : Reg) (aux : BitVec 3) (crm : Reg) : Statement (.mcr c opc crn rd cp aux crm) :=
  encode_cond _

theorem mrc (c : Cond) (opc : BitVec 3) (crn rd cp : Reg) (aux : BitVec 3) (crm : Reg) : Statement (.mrc c opc crn rd cp aux crm) :=
  encode_cond _

theorem swi (c : Cond) (comment : BitVec 24) : Statement (.swi c comment) :=
  encode_cond _

theorem undA (c : Cond) (hi : BitVec 16) (mid : BitVec 2) (lo : BitVec 4) : Statement (.undA c hi mid lo) :=
  encode_cond _

theorem undB (c : Cond) (hi : BitVec 20) (lo : BitVec 4) : Statement (.undB c hi lo) :=
  encode_cond _

end Sys2Proof.Laws.Encodes
end

