-- ==== Sys2Proof/Machine/Timing.lean ====
section
/-! DEFINITION. The informative cycle counts of R165, R435, R510 and R512. No step uses them: elapsed time between two
instructions is an input (R515, D6, log 35). -/

namespace Sys2Proof.Machine

/-- CPU-010 cycles of each kind (R510): sequential, non-sequential, internal, coprocessor transfer. -/
structure Cycles where
  sq : Nat := 0
  nq : Nat := 0
  int : Nat := 0
  cop : Nat := 0
  deriving DecidableEq, Repr

/-- CPU-020 cycles with the cache off (R512): latent and active. -/
structure Cycles020 where
  latent : Nat := 0
  active : Nat := 0
  deriving DecidableEq, Repr

/-- The number of bits of a word up to its highest 1. -/
def bitLength (v : Word) : Nat := if v = 0#32 then 0 else Nat.log2 v.toNat + 1

/-- `m` of R165: 1 for Rs = 0 or 1, `m` for Rs from `2^(2m-3)` to `2^(2m-1) - 1`, at most 16. DESIGN CHOICE (log 35): for Rs from
0x8000 to 0xFFFF this formula gives 9 where the same rule says "at most 8" of an Rs with its upper half clear; the formula is
followed. -/
def multiplyCycles (rs : Word) : Nat := min 16 ((bitLength rs + 2) / 2)

/-- Whether operand 2 has a shift amount in a register. -/
def isRegShift : Op2 → Bool
  | .imm _ _ => false
  | .shImm _ _ _ => false
  | .shReg _ _ _ => true

/-- Data processing on CPU-010 (R510). DESIGN CHOICE (log 35): the extra cycle of a shift by a register is an S-cycle as Table 21
prints it, with Rd = PC too, where Table 7 shows an I-cycle. -/
def dpCycles (writes : Bool) (rd : Reg) (op2 : Op2) : Cycles :=
  let k := if isRegShift op2 then 1 else 0
  if writes && rd == 15#4 then { sq := 2 + k, nq := 1 } else { sq := 1 + k }

/-- Data processing on CPU-020 (R512). -/
def dpCycles020 (writes : Bool) (rd : Reg) (op2 : Op2) : Cycles020 :=
  let k := if isRegShift op2 then 2 else 0
  if writes && rd == 15#4 then { latent := k + 1, active := 3 } else { latent := k, active := 1 }

/-- Table 21 (R510) for an instruction whose condition is met: `m` from Rs of a multiply, `n` words of a coprocessor transfer,
`b` busy-wait cycles. DESIGN CHOICE (log 35): a trap has Table 21's 2S + 1N for every undefined instruction, without the handshake
cycle that R253 and R245 add; an LDR or STR that writes its base back to R15 has Table 21's plain count, without the two fetch
cycles that R184 adds to every case that changes the PC, since Table 21 has a row for a loaded PC only; and a word of the unallocated multiply space, whose behaviour R90 leaves open, has the
count of the undefined-instruction trap. -/
def cycles010 (i : Instr) (m n b : Nat) : Cycles :=
  match i with
  | .and _ _ _ rd o | .eor _ _ _ rd o | .sub _ _ _ rd o | .rsb _ _ _ rd o | .add _ _ _ rd o | .adc _ _ _ rd o
  | .sbc _ _ _ rd o | .rsc _ _ _ rd o | .orr _ _ _ rd o | .mov _ _ _ rd o | .bic _ _ _ rd o | .mvn _ _ _ rd o =>
    dpCycles true rd o
  | .tst _ _ _ rd o | .teq _ _ _ rd o | .cmp _ _ _ rd o | .cmn _ _ _ rd o => dpCycles false rd o
  | .mul _ _ _ _ _ _ | .mla _ _ _ _ _ _ => { sq := 1, int := m }
  | .ldr _ _ _ _ _ rd _ | .ldrb _ _ _ _ _ rd _ =>
    if rd = 15#4 then { sq := 2, nq := 2, int := 1 } else { sq := 1, nq := 1, int := 1 }
  | .str _ _ _ _ _ _ _ | .strb _ _ _ _ _ _ _ => { nq := 2 }
  | .ldm _ _ _ _ _ _ l =>
    let k := (listedRegs l).length
    if bit l 15 then { sq := k + 1, nq := 2, int := 1 } else { sq := k, nq := 1, int := 1 }
  | .stm _ _ _ _ _ _ l => { sq := (listedRegs l).length - 1, nq := 2 }
  | .b _ _ | .bl _ _ => { sq := 2, nq := 1 }
  | .swi _ _ | .undA _ _ _ _ | .undB _ _ _ | .mulSpace _ _ _ _ | .swp _ _ _ _ | .swpb _ _ _ _ => { sq := 2, nq := 1 }
  | .cdo _ _ _ _ _ _ _ => { sq := 1, int := b }
  | .ldc _ _ _ _ _ _ _ _ _ | .stc _ _ _ _ _ _ _ _ _ => { sq := n - 1, nq := 2, int := b }
  | .mcr _ _ _ _ _ _ _ => { sq := 1, int := b, cop := 1 }
  | .mrc _ _ _ _ _ _ _ => { sq := 1, int := b + 1, cop := 1 }

/-- The CPU-020 table (R512) for an instruction whose condition is met, cache off. DESIGN CHOICE (log 35): the unallocated
multiply space as on CPU-010. -/
def cycles020 (i : Instr) (m n b : Nat) : Cycles020 :=
  match i with
  | .and _ _ _ rd o | .eor _ _ _ rd o | .sub _ _ _ rd o | .rsb _ _ _ rd o | .add _ _ _ rd o | .adc _ _ _ rd o
  | .sbc _ _ _ rd o | .rsc _ _ _ rd o | .orr _ _ _ rd o | .mov _ _ _ rd o | .bic _ _ _ rd o | .mvn _ _ _ rd o =>
    dpCycles020 true rd o
  | .tst _ _ _ rd o | .teq _ _ _ rd o | .cmp _ _ _ rd o | .cmn _ _ _ rd o => dpCycles020 false rd o
  | .mul _ _ _ _ _ _ | .mla _ _ _ _ _ _ => { latent := m + 1, active := 1 }
  | .ldr _ p _ w rn rd _ | .ldrb _ p _ w rn rd _ =>
    { latent := 3, active := if rd = 15#4 ∨ (rn = 15#4 ∧ (!p || w) = true) then 4 else 2 }
  | .str _ p _ w rn _ _ | .strb _ p _ w rn _ _ =>
    { latent := 2, active := if rn = 15#4 ∧ (!p || w) = true then 4 else 2 }
  | .ldm _ _ _ _ _ _ l =>
    { latent := 3, active := (listedRegs l).length + (if bit l 15 then 3 else 1) }
  | .stm _ _ _ _ _ _ l => { latent := 2, active := (listedRegs l).length + 1 }
  | .swp _ _ rd _ | .swpb _ _ rd _ => { latent := 4, active := if rd = 15#4 then 5 else 3 }
  | .b _ _ | .bl _ _ | .swi _ _ | .undA _ _ _ _ | .undB _ _ _ | .mulSpace _ _ _ _ => { latent := 1, active := 3 }
  | .cdo _ _ _ _ _ _ _ => { latent := b + 2, active := 1 }
  | .ldc _ _ _ _ _ _ _ _ _ => { latent := b + 3, active := n + (if 1 < n then 2 else 1) }
  | .stc _ _ _ _ _ _ _ _ _ => { latent := b + 4, active := n + 1 }
  | .mcr _ _ _ _ _ _ _ => { latent := b + 3, active := 1 }
  | .mrc _ _ _ _ _ _ _ => { latent := b + 4, active := 1 }

/-- The least number of RCLK cycles of an I/O access of type T1:T0 (R435). -/
def ioCycleLength (t : BitVec 2) : Nat :=
  match t with
  | 0#2 => 7
  | 1#2 => 6
  | 2#2 => 5
  | 3#2 => 5

end Sys2Proof.Machine
end

