-- ==== Sys2Proof/Tests/Slice0.lean ====
section
/-! SUPPORT. Tests: ill-formed terms that WellFormed refuses, words written out from the encodings of the spec (R71, R97), one
step on small states with results from spec/95_test_vectors.md Part B or by hand from the rule, and for each statement with
hypotheses a state and operands that meet them. -/

namespace Sys2Proof.Tests

open Sys2Proof.Machine

/-- What a test looks at after a step that answered a next state. -/
def after {α : Type} (f : State → α) : Out → Option α
  | .next t => some (f t)
  | .fault _ => none
  | .refused _ => none

/-- Why a meaning refused. -/
def reason : Out → Option Refusal
  | .next _ => none
  | .fault _ => none
  | .refused r => some r

/-- A machine with flat memory and no support chip (D3), in Supervisor mode. -/
def flat : State :=
  { State.reset with plat := { Config.platform with hasMemc := false, hasVidc := false, hasIoc := false } }

/-- The same with CPU-010. -/
def flat010 : State := { flat with plat := { flat.plat with cpu := .cpu010 } }

/-- The machine of reset after boot, every page of the translator on logical page 0x1000. -/
def full : State :=
  { State.reset with memc := { Memc.reset with boot := .normal, entries := Vector.replicate 128 ⟨0x1000#13, 0#2⟩ } }

/-- Registers R0 up of the User bank. -/
def withRegs (l : List Word) (s : State) : State :=
  { s with regs := { s.regs with usr := Vector.ofFn fun k => l.getD k.val 0#32 } }

/-- A mode, the other PSR bits 0. -/
def inMode (m : Mode) (s : State) : State := { s with psr := ⟨false, false, false, false, false, false, m⟩ }

/-- A word in flat memory. -/
def withWord (a : Nat) (v : Word) (s : State) : State := { s with mem := s.mem.writeWord a v }

/-- A coprocessor 1 that answers as the script says. -/
def withCp (answers : List CpAnswer) (supply : List Word) (s : State) : State :=
  { s with coprocs := [⟨1#4, answers, supply, [], []⟩] }

/-- Register `k` of the User bank. -/
def usr (k : Fin 15) (t : State) : Word := t.regs.usr[k]

/-- N, Z, C, V. -/
def flags (t : State) : Bool × Bool × Bool × Bool := (t.psr.n, t.psr.z, t.psr.c, t.psr.v)

/-! ## WellFormed -/

theorem test_mulSpace_with_mul_pattern_ill_formed :
    (Instr.mulSpace .al 0x0123#16 0#2 1#4).wf .cpu020 = false := by decide

theorem test_undA_with_swp_pattern_ill_formed :
    (Instr.undA .al 0x0010#16 0#2 1#4).wf .cpu020 = false := by decide

theorem test_undA_with_swp_pattern_on_cpu010 :
    (Instr.undA .al 0x0010#16 0#2 1#4).wf .cpu010 = true := by decide

theorem test_swp_on_cpu010_ill_formed :
    (Instr.swp .al 1#4 0#4 2#4).wf .cpu010 = false := by decide

theorem test_swpb_on_cpu010_ill_formed :
    (Instr.swpb .al 1#4 0#4 2#4).wf .cpu010 = false := by decide

/-! ## Decoding: words written out -/

/-- cond 1110, 00, I 0, the opcode, S 1, Rn 1, Rd 0, LSL 0, Rm 2 (R71, R76). -/
theorem test_decode_data_processing_low :
    decode .cpu020 0xE0110002#32 = .and .al true 1#4 0#4 (.shImm 0#5 .lsl 2#4) ∧
    decode .cpu020 0xE0310002#32 = .eor .al true 1#4 0#4 (.shImm 0#5 .lsl 2#4) ∧
    decode .cpu020 0xE0510002#32 = .sub .al true 1#4 0#4 (.shImm 0#5 .lsl 2#4) ∧
    decode .cpu020 0xE0710002#32 = .rsb .al true 1#4 0#4 (.shImm 0#5 .lsl 2#4) ∧
    decode .cpu020 0xE0910002#32 = .add .al true 1#4 0#4 (.shImm 0#5 .lsl 2#4) ∧
    decode .cpu020 0xE0B10002#32 = .adc .al true 1#4 0#4 (.shImm 0#5 .lsl 2#4) ∧
    decode .cpu020 0xE0D10002#32 = .sbc .al true 1#4 0#4 (.shImm 0#5 .lsl 2#4) ∧
    decode .cpu020 0xE0F10002#32 = .rsc .al true 1#4 0#4 (.shImm 0#5 .lsl 2#4) := by decide

/-- cond 1110, 00, I 0, the opcode, S 1, Rn 1, Rd 0, LSL 0, Rm 2 (R71, R76). -/
theorem test_decode_data_processing_high :
    decode .cpu020 0xE1110002#32 = .tst .al true 1#4 0#4 (.shImm 0#5 .lsl 2#4) ∧
    decode .cpu020 0xE1310002#32 = .teq .al true 1#4 0#4 (.shImm 0#5 .lsl 2#4) ∧
    decode .cpu020 0xE1510002#32 = .cmp .al true 1#4 0#4 (.shImm 0#5 .lsl 2#4) ∧
    decode .cpu020 0xE1710002#32 = .cmn .al true 1#4 0#4 (.shImm 0#5 .lsl 2#4) ∧
    decode .cpu020 0xE1910002#32 = .orr .al true 1#4 0#4 (.shImm 0#5 .lsl 2#4) ∧
    decode .cpu020 0xE1B10002#32 = .mov .al true 1#4 0#4 (.shImm 0#5 .lsl 2#4) ∧
    decode .cpu020 0xE1D10002#32 = .bic .al true 1#4 0#4 (.shImm 0#5 .lsl 2#4) ∧
    decode .cpu020 0xE1F10002#32 = .mvn .al true 1#4 0#4 (.shImm 0#5 .lsl 2#4) := by decide

/-- R97; the last by hand: shift amount 11111, type 10, 0, Rm 1. -/
theorem test_decode_operand2 :
    decode .cpu020 0xE3340003#32 = .teq .al true 4#4 0#4 (.imm 0#4 3#8) ∧
    decode .cpu020 0xE0454237#32 = .sub .al false 5#4 4#4 (.shReg 2#4 .lsr 7#4) ∧
    decode .cpu020 0xE33FF3C3#32 = .teq .al true 15#4 15#4 (.imm 3#4 0xC3#8) ∧
    decode .cpu020 0xE1A00FC1#32 = .mov .al false 0#4 0#4 (.shImm 31#5 .asr 1#4) := by decide

/-- R97; the last has bits 23:22 = 11 (R90). -/
theorem test_decode_multiply :
    decode .cpu020 0xE0010392#32 = .mul .al false 1#4 0#4 3#4 2#4 ∧
    decode .cpu020 0x00314392#32 = .mla .eq true 1#4 4#4 3#4 2#4 ∧
    decode .cpu020 0xE0C10392#32 = .mulSpace .al 0xC103#16 0#2 2#4 := by decide

/-- R97, R251, R250. -/
theorem test_decode_swap_and_undefined :
    decode .cpu020 0xE1020091#32 = .swp .al 2#4 0#4 1#4 ∧
    decode .cpu020 0xE1442093#32 = .swpb .al 4#4 2#4 3#4 ∧
    decode .cpu010 0xE1020091#32 = .undA .al 0x0200#16 0#2 1#4 ∧
    decode .cpu020 0xE10000F0#32 = .undA .al 0x0000#16 3#2 0#4 ∧
    decode .cpu020 0xE6000010#32 = .undB .al 0x00000#20 0#4 := by decide

/-- R97; STRB R2,[R3],-1 by hand: P 0, U 0, B 1, W 0, L 0; LDR R0,[R1,-R2] (R182) by hand: I 1, P 1, U 0, B 0, W 0, L 1. -/
theorem test_decode_single_transfer :
    decode .cpu020 0xE5901010#32 = .ldr .al true true false 0#4 1#4 (.imm 0x010#12) ∧
    decode .cpu020 0xE7A21001#32 = .str .al true true true 2#4 1#4 (.reg 0#5 .lsl 1#4) ∧
    decode .cpu020 0xE69591C0#32 = .ldr .al false true false 5#4 9#4 (.reg 3#5 .asr 0#4) ∧
    decode .cpu020 0xE7110002#32 = .ldr .al true false false 1#4 0#4 (.reg 0#5 .lsl 2#4) ∧
    decode .cpu020 0x05D52005#32 = .ldrb .eq true true false 5#4 2#4 (.imm 5#12) ∧
    decode .cpu020 0xE4432001#32 = .strb .al false false false 3#4 2#4 (.imm 1#12) := by decide

/-- R97. -/
theorem test_decode_block_transfer :
    decode .cpu020 0xE8BD0007#32 = .ldm .al false true false true 13#4 0x0007#16 ∧
    decode .cpu020 0xE92D400F#32 = .stm .al true false false true 13#4 0x400F#16 ∧
    decode .cpu020 0xE8FD800F#32 = .ldm .al false true true true 13#4 0x800F#16 := by decide

/-- R97. -/
theorem test_decode_branch :
    decode .cpu020 0xEAFFFFFE#32 = .b .al 0xFFFFFE#24 ∧
    decode .cpu020 0xEB000000#32 = .bl .al 0#24 ∧
    decode .cpu020 0xEF000001#32 = .swi .al 1#24 := by decide

/-- R97. -/
theorem test_decode_coprocessor :
    decode .cpu020 0xEEA71102#32 = .cdo .al 10#4 7#4 1#4 1#4 0#3 2#4 ∧
    decode .cpu020 0xEE020F10#32 = .mcr .al 0#3 2#4 0#4 15#4 0#3 0#4 ∧
    decode .cpu020 0xEE101F10#32 = .mrc .al 0#3 0#4 1#4 15#4 0#3 0#4 ∧
    decode .cpu020 0xED901104#32 = .ldc .al true true false false 0#4 1#4 1#4 4#8 ∧
    decode .cpu020 0xEC821302#32 = .stc .al false true false false 2#4 1#4 3#4 2#8 := by decide

theorem test_encode_words :
    encode (.mul .al false 1#4 0#4 3#4 2#4) = 0xE0010392#32 ∧
    encode (.ldr .al false true false 5#4 9#4 (.reg 3#5 .asr 0#4)) = 0xE69591C0#32 ∧
    encode (.cdo .al 10#4 7#4 1#4 1#4 0#3 2#4) = 0xEEA71102#32 := by decide

theorem test_decode_table_word :
    decodeTableWord 32 0xE0910002 = some (.add .al true 1#4 0#4 (.shImm 0#5 .lsl 2#4)) := by decide

/-! ## Instructions -/

theorem test_and :
    after (fun t => (usr 0 t, flags t)) (exec (.and .al true 1#4 0#4 (.shImm 0#5 .lsl 2#4)) (withRegs [0x77, 0xf0f0f0f0, 0xff00ff0] flat)) =
      some (0xf000f0#32, (false, false, false, false)) := by decide

theorem test_eor :
    after (fun t => (usr 0 t, flags t)) (exec (.eor .al true 1#4 0#4 (.shImm 0#5 .lsl 2#4)) (withRegs [0x77, 0xffffffff, 0x7fffffff] flat)) =
      some (0x80000000#32, (true, false, false, false)) := by decide

theorem test_sub :
    after (fun t => (usr 0 t, flags t)) (exec (.sub .al true 1#4 0#4 (.shImm 0#5 .lsl 2#4)) (withRegs [0x77, 0x80000000, 1] flat)) =
      some (0x7fffffff#32, (false, false, true, true)) := by decide

theorem test_rsb :
    after (fun t => (usr 0 t, flags t)) (exec (.rsb .al true 1#4 0#4 (.shImm 0#5 .lsl 2#4)) (withRegs [0x77, 7, 5] flat)) =
      some (0xfffffffe#32, (true, false, false, false)) := by decide

theorem test_add :
    after (fun t => (usr 0 t, flags t)) (exec (.add .al true 1#4 0#4 (.shImm 0#5 .lsl 2#4)) (withRegs [0x77, 0x7fffffff, 1] flat)) =
      some (0x80000000#32, (true, false, false, true)) := by decide

theorem test_adc :
    after (fun t => (usr 0 t, flags t)) (exec (.adc .al true 1#4 0#4 (.shImm 0#5 .lsl 2#4)) { (withRegs [0x77, 0xffffffff, 0] flat) with psr := { flat.psr with c := true } }) =
      some (0x0#32, (false, true, true, false)) := by decide

theorem test_sbc :
    after (fun t => (usr 0 t, flags t)) (exec (.sbc .al true 1#4 0#4 (.shImm 0#5 .lsl 2#4)) { (withRegs [0x77, 5, 5] flat) with psr := { flat.psr with c := false } }) =
      some (0xffffffff#32, (true, false, false, false)) := by decide

theorem test_rsc :
    after (fun t => (usr 0 t, flags t)) (exec (.rsc .al true 1#4 0#4 (.shImm 0#5 .lsl 2#4)) { (withRegs [0x77, 1, 3] flat) with psr := { flat.psr with c := false } }) =
      some (0x1#32, (false, false, true, false)) := by decide

theorem test_tst :
    after (fun t => (usr 0 t, flags t)) (exec (.tst .al true 1#4 0#4 (.shImm 0#5 .lsl 2#4)) (withRegs [0x77, 2, 1] flat)) =
      some (0x77#32, (false, true, false, false)) := by decide

theorem test_teq :
    after (fun t => (usr 0 t, flags t)) (exec (.teq .al true 1#4 0#4 (.shImm 0#5 .lsl 2#4)) (withRegs [0x77, 1, 1] flat)) =
      some (0x77#32, (false, true, false, false)) := by decide

theorem test_cmp :
    after (fun t => (usr 0 t, flags t)) (exec (.cmp .al true 1#4 0#4 (.shImm 0#5 .lsl 2#4)) (withRegs [0x77, 5, 7] flat)) =
      some (0x77#32, (true, false, false, false)) := by decide

theorem test_cmn :
    after (fun t => (usr 0 t, flags t)) (exec (.cmn .al true 1#4 0#4 (.shImm 0#5 .lsl 2#4)) (withRegs [0x77, 0xffffffff, 1] flat)) =
      some (0x77#32, (false, true, true, false)) := by decide

theorem test_orr :
    after (fun t => (usr 0 t, flags t)) (exec (.orr .al true 1#4 0#4 (.shImm 0#5 .lsl 2#4)) (withRegs [0x77, 0x80000000, 1] flat)) =
      some (0x80000001#32, (true, false, false, false)) := by decide

theorem test_mov :
    after (fun t => (usr 0 t, flags t)) (exec (.mov .al true 0#4 0#4 (.shImm 0#5 .lsl 2#4)) (withRegs [0x77, 9, 0] flat)) =
      some (0x0#32, (false, true, false, false)) := by decide

theorem test_bic :
    after (fun t => (usr 0 t, flags t)) (exec (.bic .al true 1#4 0#4 (.shImm 0#5 .lsl 2#4)) (withRegs [0x77, 0xff, 0xf] flat)) =
      some (0xf0#32, (false, false, false, false)) := by decide

theorem test_mvn :
    after (fun t => (usr 0 t, flags t)) (exec (.mvn .al true 0#4 0#4 (.shImm 0#5 .lsl 2#4)) (withRegs [0x77, 9, 0] flat)) =
      some (0xffffffff#32, (true, false, false, false)) := by decide

/-- R139: MOVS R0,R1 LSL 1. -/
theorem test_movs_lsl_carry :
    after (fun t => (usr 0 t, flags t)) (exec (.mov .al true 0#4 0#4 (.shImm 1#5 .lsl 1#4)) (withRegs [0, 0x80000001] flat)) =
      some (2#32, (false, false, true, false)) := by decide

/-- R139: MOV R0,PC at 0x8000. -/
theorem test_mov_pc_operand :
    after (usr 0) (exec (.mov .al false 0#4 0#4 (.shImm 0#5 .lsl 15#4))
      { flat with pc := 0x2000#24, psr := ⟨false, true, true, false, false, false, .svc⟩ }) = some 0x6000800B#32 := by decide

/-- Part B13, last row, with mode bits added. -/
theorem test_teqp_user_keeps_mode :
    after (fun t => (t.psr, t.pc)) (exec (.teq .al true 15#4 15#4 (.imm 3#4 0xC3#8))
      { flat with pc := 0x2000#24, psr := ⟨true, true, true, true, false, false, .user⟩ }) =
      some (⟨false, false, false, false, false, false, .user⟩, 0x2001#24) := by decide

/-- Part B7: the product 2^32 truncates to 0. -/
theorem test_mul :
    after (fun t => (usr 0 t, t.psr.n, t.psr.z, t.psr.v)) (exec (.mul .al true 0#4 0#4 2#4 1#4)
      (withRegs [9, 0x10000, 0x10000] flat)) = some (0#32, false, true, false) := by decide

theorem test_mla :
    after (usr 0) (exec (.mla .al false 0#4 3#4 2#4 1#4) (withRegs [9, 3, 5, 7] flat)) = some 22#32 := by decide

theorem test_mulSpace :
    reason (exec (.mulSpace .al 0xC103#16 0#2 2#4) flat) = some .unallocatedMultiply := by decide

theorem test_mulSpace_never :
    after (fun t => t.pc) (exec (.mulSpace .nv 0xC103#16 0#2 2#4) flat) = some 1#24 := by decide

theorem test_swp :
    after (fun t => (usr 0 t, t.mem.readWord 0x1000)) (exec (.swp .al 2#4 0#4 1#4)
      (withWord 0x1000 0x11223344#32 (withRegs [0, 0xAABBCCDD, 0x1001] flat))) = some (0x44112233#32, 0xAABBCCDD#32) := by decide

theorem test_swpb :
    after (fun t => (usr 0 t, t.mem.readWord 0x1000)) (exec (.swpb .al 2#4 0#4 1#4)
      (withWord 0x1000 0x11223344#32 (withRegs [0, 0xAABBCCDD, 0x1001] flat))) = some (0x33#32, 0x1122DD44#32) := by decide

theorem test_ldr :
    after (fun t => (usr 0 t, usr 1 t)) (exec (.ldr .al false true false 1#4 0#4 (.imm 4#12))
      (withWord 0x1000 0x11223344#32 (withRegs [0, 0x1003] flat))) = some (0x22334411#32, 0x1007#32) := by decide

/-- Part B13, second row. -/
theorem test_ldr_address_exception :
    after (fun t => (t.regs.svc[1], t.pc, t.psr.mode)) (exec (.ldr .al true true false 1#4 0#4 (.imm 0#12))
      { withRegs [0, 0x04000000] flat with pc := 0x2000#24, psr := ⟨false, true, true, false, false, false, .user⟩ }) =
      some (0x60008008#32, 5#24, .svc) := by decide

theorem test_ldrb :
    after (usr 0) (exec (.ldrb .al true true false 1#4 0#4 (.imm 0#12))
      (withWord 0x1000 0x11223344#32 (withRegs [0xFFFFFFFF, 0x1001] flat))) = some 0x33#32 := by decide

/-- R171, R182: U 0 with a register offset, W 1. -/
theorem test_ldrb_subtracted_register :
    after (fun t => (usr 0 t, usr 1 t)) (exec (.ldrb .al true false true 1#4 0#4 (.reg 0#5 .lsl 2#4))
      (withWord 0x1000 0x11223344#32 (withRegs [0, 0x1010, 0x10] flat))) = some (0x44#32, 0x1000#32) := by decide

theorem test_str :
    after (fun t => (t.mem.readWord 0x1000, usr 1 t)) (exec (.str .al true true true 1#4 0#4 (.imm 2#12))
      (withRegs [0x12345678, 0x1000] flat)) = some (0x12345678#32, 0x1002#32) := by decide

/-- R177: R15 is stored with the PSR, 12 ahead; here I = F = 1, Supervisor. -/
theorem test_str_pc :
    after (fun t => t.mem.readWord 0x1000) (exec (.str .al true true false 1#4 15#4 (.imm 0#12))
      { withRegs [0, 0x1000] flat with pc := 0x2000#24 }) = some 0x0C00800F#32 := by decide

/-- Part B8. -/
theorem test_strb :
    after (fun t => t.mem.readWord 0x1000) (exec (.strb .al true true false 1#4 0#4 (.imm 0#12))
      (withWord 0x1000 0x11223344#32 (withRegs [0x12345678, 0x1003] flat))) = some 0x78223344#32 := by decide

/-- Part B9: LDMDB R0!. -/
theorem test_ldm :
    after (fun t => (usr 0 t, usr 1 t, usr 5 t)) (exec (.ldm .al true false false true 0#4 0x0022#16)
      (withWord 0xFFC 0xA2#32 (withWord 0xFF8 0xA1#32 (withRegs [0x1000] flat)))) = some (0xFF8#32, 0xA1#32, 0xA2#32) := by decide

/-- Part B9: LDMIA SP!,{..PC}^ restores PC and PSR. -/
theorem test_ldm_pc_psr :
    after (fun t => (t.pc, t.psr, t.regs.svc[0])) (exec (.ldm .al false true true true 13#4 0x8000#16)
      (withWord 0x1000 0x60009000#32 { flat with regs := setPhys flat.regs (.svc 0) 0x1000#32 })) =
      some (0x2400#24, ⟨false, true, true, false, false, false, .user⟩, 0x1004#32) := by decide

/-- R195: the base, first of the list, is stored as it was. -/
theorem test_stm_base_first :
    after (fun t => (t.mem.readWord 0x1000, t.mem.readWord 0x1004, usr 0 t)) (exec (.stm .al false true false true 0#4 0x0003#16)
      (withRegs [0x1000, 7] flat)) = some (0x1000#32, 7#32, 0x1008#32) := by decide

/-- R195: the base, not first, is stored as written back. -/
theorem test_stm_base_second :
    after (fun t => t.mem.readWord 0x1004) (exec (.stm .al false true false true 1#4 0x0003#16)
      (withRegs [9, 0x1000] flat)) = some 0x1008#32 := by decide

/-- R97: B to itself. -/
theorem test_b :
    after (fun t => t.pc) (exec (.b .al 0xFFFFFE#24) { flat with pc := 0x2000#24 }) = some 0x2000#24 := by decide

/-- The example of R102. -/
theorem test_bl :
    after (fun t => (t.pc, usr 14 t)) (exec (.bl .al 0x10#24)
      { flat with pc := 0x2000#24, psr := ⟨false, true, true, false, false, false, .user⟩ }) = some (0x2012#24, 0x60008004#32) := by decide

/-- Part B11. -/
theorem test_swi :
    after (fun t => (t.pc, t.regs.svc[1], t.psr)) (exec (.swi .al 0x123456#24)
      { flat with pc := 0x2000#24, psr := ⟨true, false, true, false, false, false, .user⟩ }) =
      some (2#24, 0xA0008004#32, ⟨true, false, true, false, true, false, .svc⟩) := by decide

theorem test_swi_after_cdo_cpu010 :
    after (fun t => t.pc) (exec (.swi .al 0#24) { flat010 with afterCdo := true }) = some 1#24 := by decide

theorem test_undA :
    after (fun t => t.pc) (exec (.undA .al 0#16 3#2 0#4) flat) = some 1#24 := by decide

/-- Part B11. -/
theorem test_undB :
    after (fun t => (t.pc, t.regs.svc[1])) (exec (.undB .al 0#20 0#4)
      { flat with pc := 0x2000#24, psr := ⟨false, true, false, false, false, false, .user⟩ }) = some (1#24, 0x40008004#32) := by decide

/-- Part B11. -/
theorem test_cdo_absent :
    after (fun t => (t.pc, t.regs.svc[1])) (exec (.cdo .al 0#4 0#4 0#4 1#4 0#3 0#4)
      { flat with pc := 0x2000#24, psr := ⟨false, false, false, false, true, false, .irq⟩ }) = some (1#24, 0x08008006#32) := by decide

theorem test_cdo_ready :
    after (fun t => (t.pc, t.coprocs.map fun c => c.log.length)) (exec (.cdo .al 0#4 0#4 0#4 1#4 0#3 0#4) (withCp [.ready] [] flat)) =
      some (1#24, [2]) := by decide

/-- Part B14. -/
theorem test_mcr_cp15_control :
    after (fun t => t.cp15.r2) (exec (.mcr .al 0#3 2#4 1#4 15#4 0#3 0#4) (withRegs [0, 0xFFFFFFFF] flat)) = some 7#3 := by decide

/-- Part B14. -/
theorem test_mrc_cp15_identity :
    after (usr 0) (exec (.mrc .al 0#3 0#4 0#4 15#4 0#3 0#4) flat) = some 0x41560300#32 := by decide

/-- Part B14. -/
theorem test_mrc_cp15_user :
    after (fun t => (t.pc, usr 0 t)) (exec (.mrc .al 0#3 0#4 0#4 15#4 0#3 0#4) (inMode .user flat)) = some (1#24, 0#32) := by decide

theorem test_mcr_cp15_register_6 :
    reason (exec (.mcr .al 0#3 6#4 1#4 15#4 0#3 0#4) flat) = some .cp15Register := by decide

theorem test_ldc :
    after (fun t => (t.coprocs.map fun c => c.log.length, usr 2 t)) (exec (.ldc .al false true false true 2#4 0#4 1#4 2#8)
      (withWord 0x1000 5#32 (withCp [.ready] [] (withRegs [0, 0, 0x1000] flat)))) = some ([2], 0x1008#32) := by decide

theorem test_stc :
    after (fun t => t.mem.readWord 0xFF8) (exec (.stc .al true false false false 2#4 0#4 1#4 2#8)
      (withCp [.ready] [0xCAFE] (withRegs [0, 0, 0x1000] flat))) = some 0xCAFE#32 := by decide

theorem test_ldm_empty :
    reason (exec (.ldm .al false true false false 0#4 0#16) flat) = some .emptyRegisterList := by decide

/-! ## Support chips and the step -/

/-- Part B15: 0x3800105 at 4-Kbyte pages. -/
theorem test_translator_write :
    after (fun t => t.memc.entries[5]) (exec (.str .al true true false 1#4 0#4 (.imm 0#12)) (withRegs [0, 0x3800105] full)) =
      some ⟨0#13, 1#2⟩ := by decide

/-- Part B15: 0x3F08C1B at 32-Kbyte pages. -/
theorem test_translator_write_32k :
    after (fun t => t.memc.entries[0x53]) (exec (.str .al true true false 1#4 0#4 (.imm 0#12))
      (withRegs [0, 0x3F08C1B] { full with memc := { full.memc with pageSize := 3#2 } })) = some ⟨0x3E1#13, 0#2⟩ := by decide

/-- Part B15: 0x36E0D4C, here with the page size kept. -/
theorem test_memc_control :
    after (fun t => (t.memc.highRom, t.memc.refresh, t.memc.videoDma, t.memc.soundDma, t.memc.osMode))
      (exec (.str .al true true false 1#4 0#4 (.imm 0#12)) (withRegs [0, 0x36E0D40] full)) = some (1#2, 1#2, true, true, false) := by decide

/-- Part B15: PPL 01 is read-only to User. -/
theorem test_user_store_read_only_page :
    after (fun t => (t.pc, t.mem)) (exec (.str .al true true false 1#4 0#4 (.imm 0#12)) (inMode .user (withRegs [7, 0x100]
      { full with memc := { full.memc with entries := full.memc.entries.set 5 ⟨0#13, 1#2⟩ } }))) = some (4#24, []) := by decide

/-- Part B15. -/
theorem test_os_mode_store :
    after (fun t => t.mem.readWord 0x2005100) (exec (.str .al true true false 1#4 0#4 (.imm 0#12)) (inMode .user (withRegs [7, 0x100]
      { full with memc := { full.memc with osMode := true, entries := full.memc.entries.set 5 ⟨0#13, 1#2⟩ } }))) =
      some 7#32 := by decide

/-- Part B16. -/
theorem test_vidc_palette :
    after (fun t => t.vidc.palette[5]) (exec (.str .al true true false 1#4 0#4 (.imm 0#12))
      (withRegs [0x1400080F, 0x3400000] full)) = some 0x080F#13 := by decide

/-- Part B17. -/
theorem test_ioc_timer_latch :
    after (fun t => t.ioc.timers[0].inLatch) (exec (.strb .al true true false 1#4 0#4 (.imm 0#12))
      (withRegs [0x1F, 0x3200040] full)) = some 0x001F#16 := by decide

/-- R192: an STM accesses the aligned word, here 0x3800104. -/
theorem test_stm_translator_aligned :
    after (fun t => (t.memc.entries[4], t.memc.entries[5])) (exec (.stm .al false true false false 1#4 0x0001#16)
      (withRegs [0, 0x3800105] full)) = some (⟨0#13, 1#2⟩, ⟨0x1000#13, 0#2⟩) := by decide

/-- A video burst is asked for, and served between the first two accesses. -/
def dmaStm : State :=
  { full with
    midEvents := [[], [.videoDma]]
    memc := { full.memc with videoDma := true, vend := 9 }
    vidc := { full.vidc with videoWanted := 1 } }

/-- R336: a burst between the two stores sees the first word only. -/
theorem test_dma_between_stm_words :
    after (fun t => (t.memc.vptr, t.mem.readWord 0x2000004, t.vidc.videoFifo)) (exec (.stm .al false true false false 2#4 0x0003#16)
      (withRegs [7, 8, 0x2000000] dmaStm)) =
      some (1#15, 8#32, [7#32, 0#32, 0#32, 0#32]) := by decide

/-- R401, R434: bank 5, type 0, offset 8. -/
theorem test_device_write_then_read :
    after (fun t => (usr 3 t, t.devices.map fun d => (d.supply, d.log))) (exec (.ldr .al true true false 1#4 3#4 (.imm 0#12))
      { withRegs [0, 0x3250008] full with devices := [⟨5#3, [0x11], []⟩] }) =
      some (0x11#32, [([], [.read 0#2 0x3250008#26 0x11#32])]) := by decide

/-- R424, R431: 32 + 7 * 32 + 16 = 272 of the 352 reloads. -/
theorem test_kart_receives_half_way_through_last_bit :
    (reloadEvent 3 { full with ioc := { full.ioc with rx := some (0x5A, 81), rxReady := true } }).ioc.rxData = 0x5A#8 ∧
    (reloadEvent 3 { full with ioc := { full.ioc with rx := some (0x5A, 81), rxReady := true } }).ioc.srx = true ∧
    (reloadEvent 3 { full with ioc := { full.ioc with rx := some (0x5A, 82), rxReady := true } }).ioc.srx = false := by decide

/-- A Go of timer 0, whose counter is 0 and latch 9, in the instant of a tick. -/
def goState : State :=
  let t := goTimer 0 { full with ioc := { full.ioc with timers := full.ioc.timers.set 0 ⟨0, 9, 0, false⟩ } }
  { t with ioc := { t.ioc with coinciding := true } }

/-- R425: the event happens, and the second tick is the extra one. -/
theorem test_go_at_underflow_costs_a_tick :
    (let t := tickTimer 0 (separate (tickTimer 0 goState)); (t.ioc.timers[0], t.ioc.latA)) = (⟨9, 9, 0, false⟩, 0b01100#5) := by decide

/-- VIDC with displayed rasters 1 to 2 of 4, requesting at the end of words 1 and 5, in the sync raster. -/
def vidcState : State :=
  { full with vidc := { full.vidc with
      sfr := 0x1FF, cr := 0x10, flbk := true, vert := #v[3, 0, 0, 0, 2, 2, 0, 0], vcount := 0 } }

/-- R386, R388. -/
theorem test_first_displayed_raster :
    (let t := applyEvents [.raster, .hsyncEnd] vidcState; (t.vidc.flbk, t.vidc.videoWanted)) = (false, 2#2) := by decide

/-- R326, R386: a video request still stands as the sync pulse of the first cursor raster begins. -/
theorem test_overlap_video_then_cursor :
    (let t := applyEvents [.raster, .videoDma, .cursorDma]
      { vidcState with
          memc := { vidcState.memc with videoDma := true }
          vidc := { vidcState.vidc with videoWanted := 1, vcount := 1, vert := #v[3, 0, 0, 0, 2, 2, 1, 3] } }
     (t.vidc.videoFifo.length, t.vidc.cursorFifo.length, t.vidc.vdrqLow)) = (4, 4, false) := by decide

/-- R388: VDER = VCR, so the first raster that is not display is raster 0. -/
theorem test_flyback_without_front_porch :
    (applyEvents [.raster] { vidcState with vidc := { vidcState.vidc with flbk := false, vcount := 3, vert := #v[3, 0, 0, 0, 3, 3, 0, 0] } }).vidc.flbk = true := by decide

/-- R374, R387: an SFR write holds the timing cleared. -/
theorem test_cleared_timing_asks_for_nothing :
    (applyEvents [.spuriousRequest true true true, .hsyncLevel true] { full with vidc := { full.vidc with written := 0x1000000000000 } }).vidc =
    { full.vidc with written := 0x1000000000000 } ∧
    (applyEvents [.spuriousRequest true true true] full).vidc.cursorWanted = true := by decide

/-- The same in the odd field of an interlaced display. -/
def oddState : State :=
  { vidcState with vidc := { vidcState.vidc with cr := 0x50, oddField := true, horiz := #v[3, 0, 0, 0, 0, 0, 0, 2] } }

/-- R384, R386, R388: the sync pulse ends half way along the dummy raster. -/
theorem test_odd_field_asks_after_the_dummy_raster :
    (let t := applyEvents [.raster, .hsyncEnd] oddState; let u := applyEvents [.raster, .hsyncEnd] t
     (t.vidc.vsycLevel 0, t.vidc.flbk, t.vidc.videoWanted, u.vidc.vsycLevel 0, u.vidc.vcount, u.vidc.flbk, u.vidc.videoWanted)) =
      (false, true, 0#2, true, 1#10, false, 2#2) := by decide

/-- R375, R386. -/
theorem test_request_at_end_of_word_one :
    (let t := { vidcState.vidc with vcount := 1, videoFifo := [1, 2, 3] }; (t.takeVideo.videoWanted, t.takeVideo.takeVideo.videoWanted)) = (0#2, 1#2) := by decide

/-- R491, R492: without write-back Rn is out of reach. -/
theorem test_held_load_may_write :
    mayWritePhys true (.ldr .al true true false 1#4 0#4 (.imm 0#12)) (withRegs [0, 0x3000000] full) = [.usr 0] ∧
    mayWritePhys true (.str .al true true false 1#4 0#4 (.imm 0#12)) (withRegs [0, 0x3000000] full) = [] := by decide

/-- R491: an LDC that the clocks were held in had been accepted; its coprocessor need have no answer left. -/
theorem test_held_ldc_may_write_back :
    mayWritePhys true (.ldc .al true true false true 1#4 0#4 1#4 0#8) (withRegs [0, 0x3000000] full) = [.usr 1] := by decide

/-- Part B15 (U30). -/
theorem test_no_io_controller :
    after (fun t => t.held) (exec (.ldr .al true true false 1#4 0#4 (.imm 0#12)) (withRegs [0, 0x3000000] full)) =
      some (some .noIoController) := by decide

/-- Part B17: a reload sets TM0. -/
theorem test_timer_reload :
    ((tickTimer 0 { full with ioc := { full.ioc with timers := full.ioc.timers.set 0 ⟨0, 19999, 0, false⟩ } }).ioc.timers[0].counter,
      (tickTimer 0 { full with ioc := { full.ioc with timers := full.ioc.timers.set 0 ⟨0, 19999, 0, false⟩ } }).ioc.latA) =
      (19999#16, 0b01100#5) := by decide

/-- ADD R0,R1,R2 from the boot ROM. -/
theorem test_step_runs_placed_word :
    after (usr 0) (step ((withRegs [0, 3, 4] State.reset).withFetchWord 32 0xE0810002)) = some 7#32 := by decide

/-- Part B13: the instruction after the one at 0x1000 is next. -/
theorem test_step_irq_before_instruction :
    after (fun t => (t.pc, t.regs.irq[1])) (step { inMode .svc flat with nirq := false, pc := 0x401#24 }) =
      some (6#24, 0x0000100B#32) := by decide

theorem test_reset_then_fetch_from_rom :
    (State.reset.withFetchWord 32 0xE1A00000).mem = [(0x3800002, 0xA0#8), (0x3800003, 0xE1#8)] := by decide

theorem test_held_without_input :
    (match step (hold .memcTestMode flat) with | .fault f => some f | .next _ => none | .refused _ => none) =
      some (.clocksHeld .memcTestMode) := by decide

/-! ## States and operands that meet the hypotheses of each statement -/

/-- The hypothesis that the condition is true holds of the condition AL in every state used below. -/
theorem test_meets_condition_true : ∀ p : Psr, condPassed .al p = true := fun _ => rfl

theorem test_meets_DecodeEncode :
    (Instr.undB .nv 0xFFFFF#20 15#4).wf .cpu010 = true ∧ (Instr.swp .al 1#4 0#4 2#4).wf .cpu020 = true := by decide

/-- MOV R0,R0 at 0x8000 of flat memory. -/
def stepState : State := { withWord 0x8000 0xE1A00000#32 flat with pc := 0x2000#24 }

/-- The PC on a logical page that no entry holds. -/
def abortState : State := { full with pc := 0x2000#24 }

theorem test_meets_StepRunsDecoded :
    stepState.inputs = [] ∧ stepState.held = none ∧ stepState.cut = none ∧ stepState.midEvents = [] ∧
    firqAccepted false stepState = false ∧ irqAccepted false stepState = false ∧ stepState.pipe = [] ∧
    stepState.plat.hasMemc = false ∧ cacheOn stepState = false ∧
    ∃ u t rest, fetchFirst stepState = .done () u ∧ firqAccepted false u = false ∧ irqAccepted false u = false ∧
      fillPipe u = .done () t ∧ t.pipe = ⟨.word 0xE1A00000#32, true⟩ :: rest := ⟨rfl, rfl, rfl, rfl, by decide, by decide, rfl, rfl, by decide, _, _, _, rfl, rfl, rfl, rfl, rfl⟩

theorem test_meets_StepRunsDecoded_bytes :
    (fetchAddress stepState.pc).toNat = 0x8000 ∧
    decodeBytes stepState.plat.cpu [stepState.mem.read 0x8000, stepState.mem.read 0x8001, stepState.mem.read 0x8002,
      stepState.mem.read 0x8003] = .ok (.mov .al false 0#4 0#4 (.shImm 0#5 .lsl 0#4), []) := ⟨by decide, rfl⟩

theorem test_meets_StepRunsDecoded_aborted :
    abortState.inputs = [] ∧ abortState.held = none ∧
    ∃ u t rest, fetchFirst abortState = .done () u ∧ firqAccepted false u = false ∧ irqAccepted false u = false ∧
      fillPipe u = .done () t ∧ t.pipe = ⟨.aborted, true⟩ :: rest := ⟨rfl, rfl, _, _, _, rfl, rfl, rfl, rfl, rfl⟩

/-- Both interrupt pins low, I and F clear. -/
def irqState : State := { inMode .user flat with nirq := false, nfirq := false }

theorem test_meets_InterruptPriority :
    irqState.inputs = [] ∧ irqState.held = none ∧
    (∃ u, fetchFirst irqState = .done () u ∧ firqLow u = true ∧ u.psr.f = false) ∧
    ∃ u, fetchFirst { irqState with nfirq := true } = .done () u ∧ firqLow u = false ∧ irqLow u = true ∧ u.psr.i = false := ⟨rfl, rfl, ⟨_, rfl, rfl, rfl⟩, _, rfl, rfl, rfl, rfl⟩

theorem test_meets_ConditionFails :
    condPassed (Instr.swi .nv 0#24).cond flat.psr = false ∧ condPassed (Instr.b .eq 0#24).cond flat.psr = false := by decide

theorem test_meets_CompareConditions :
    condPassed .al flat.psr = true ∧ (0#4 : Reg) ≠ 15#4 ∧
    ∃ t, exec (.cmp .al true 1#4 0#4 (.shImm 0#5 .lsl 2#4)) flat = .next t := ⟨rfl, by decide, _, rfl⟩

theorem test_meets_data_processing_statements :
    condPassed .al flat.psr = true ∧ (14#4 : Reg) ≠ 15#4 := by decide

theorem test_meets_RegisterBanks :
    flat.hazard = .none ∧ { flat with hazard := .modeChange .irq 3 }.hazard = .modeChange .irq 3 ∧
    { flat with hazard := .userBank 3 }.hazard = .userBank 3 ∧ (7#4 : Reg).toNat < 8 ∧ (14#4 : Reg) ≠ 15#4 ∧ (13#4 : Reg).toNat = 13 ∧ (8#4 : Reg).toNat = 8 ∧ (12#4 : Reg).toNat < 13 := by decide

theorem test_meets_MultiplyResult :
    condPassed .al flat.psr = true ∧ (0#4 : Reg) ≠ 15#4 ∧ (0#4 : Reg) ≠ 1#4 ∧ flat.hazard = .none := by decide

theorem test_meets_BranchTarget :
    condPassed .al flat.psr = true ∧ ((0xFFFFFE#24).toNat : Int) = (((0#24).toNat * 4 - ((0#24).toNat : Int) * 4 - 8) / 4) % 2 ^ 24 := by decide

theorem test_meets_BranchLink :
    condPassed .al flat.psr = true ∧ ∃ t, exec (.bl .al 0#24) flat = .next t := ⟨rfl, _, rfl⟩

theorem test_meets_SoftwareInterrupt :
    condPassed .al flat.psr = true ∧ flat010.plat.cpu = .cpu010 ∧ flat.afterCdo = false := by decide

theorem test_meets_UndefinedTrap :
    condPassed (Instr.undA .al 0#16 3#2 0#4).cond flat.psr = true ∧ condPassed (Instr.undB .al 0#20 0#4).cond flat.psr = true ∧
    condPassed (Instr.swp .al 1#4 0#4 2#4).cond flat010.psr = true ∧ flat010.plat.cpu = .cpu010 := by decide

theorem test_meets_ExceptionReturn :
    (0xFFFFFE#24).toNat + 1 < 2 ^ 24 ∧ (0xFFFFFD#24).toNat + 2 < 2 ^ 24 := by decide

/-- R1 at the highest legal word, R2 at the lowest illegal address, R3 in memory. -/
def transferState : State := withWord 0x1000 0x11223344#32 (withRegs [7, 0x03FFFFFC, 0x04000000, 0x1001] flat)

/-- A User-mode machine whose page 0 is read only and whose page at 0x10000 is not there. -/
def pagedState : State := inMode .user (withRegs [7, 0x100, 0x10000]
  { full with memc := { full.memc with entries := full.memc.entries.set 5 ⟨0#13, 1#2⟩ } })

theorem test_meets_LoadResult :
    condPassed .al flat.psr = true ∧ illegalAddress (singleAddress true true 1#4 (.imm 0#12) transferState) = false ∧
    ∃ word t, memRead (busAddress (singleAddress true true 1#4 (.imm 0#12) transferState))
      (translateBit true false transferState) transferState = .done word t := ⟨rfl, by decide, _, _, rfl⟩

theorem test_meets_StoreResult :
    illegalAddress (singleAddress true true 3#4 (.imm 0#12) transferState) = false ∧
    (∃ t, memWrite (busAddress (singleAddress true true 3#4 (.imm 0#12) transferState)) .word
      (regOrR15 12 3 0#4 transferState) (translateBit true false transferState) transferState = .done () t) ∧
    ∃ t, memWrite (busAddress (singleAddress true true 3#4 (.imm 0#12) transferState)) .byte
      (repeatByte (regOrR15 12 3 0#4 transferState)) (translateBit true false transferState) transferState = .done () t := ⟨by decide, ⟨_, rfl⟩, _, rfl⟩

theorem test_meets_TransferTraps :
    illegalAddress (singleAddress true true 2#4 (.imm 0#12) transferState) = true ∧
    illegalAddress (singleAddress true true 2#4 (.imm 0#12) pagedState) = false ∧
    (∃ t, memRead (busAddress (singleAddress true true 2#4 (.imm 0#12) pagedState)) (translateBit true false pagedState)
      pagedState = .abort t) ∧
    (∃ t, memWrite (busAddress (singleAddress true true 1#4 (.imm 0#12) pagedState)) .word (regOrR15 12 3 0#4 pagedState)
      (translateBit true false pagedState) pagedState = .abort t) ∧
    (∃ t, memWrite (busAddress (singleAddress true true 1#4 (.imm 0#12) pagedState)) .byte
      (repeatByte (regOrR15 12 3 0#4 pagedState)) (translateBit true false pagedState) pagedState = .abort t) ∧
    illegalAddress (blockStart false true 0x0003#16 (regOrR15 8 0 2#4 transferState)) = true := ⟨by decide, by decide, ⟨_, rfl⟩, ⟨_, rfl⟩, ⟨_, rfl⟩, by decide⟩

theorem test_meets_LoadPlain_StorePlain :
    transferState.cut = none ∧ transferState.plat.hasMemc = false ∧ cacheOn transferState = false ∧ Memory.wf transferState.mem = true ∧
    transferState.hazard = .none ∧ illegalAddress (singleAddress true true 1#4 (.imm 0#12) transferState) = false ∧
    illegalAddress (singleAddress false true 3#4 (.imm 0xFFF#12) transferState) = false ∧ (1#4 : Reg) ≠ 15#4 := by decide

theorem test_meets_LoadFrame_StoreFrame :
    transferState.cut = none ∧ pagedState.cut = none ∧ transferState.hazard = .none ∧ Memory.wf transferState.mem = true ∧
    (∃ t, exec (.ldr .al true true false 1#4 0#4 (.imm 0#12)) transferState = .next t) ∧
    (∃ t, exec (.str .al true true false 3#4 0#4 (.imm 0#12)) transferState = .next t) ∧
    ∃ t, exec (.strb .al true true false 1#4 0#4 (.imm 0#12)) pagedState = .next t := ⟨rfl, rfl, rfl, by decide, ⟨_, rfl⟩, ⟨_, rfl⟩, _, rfl⟩

theorem test_meets_RegisterFrame :
    accessesMemory (.mcr .al 0#3 1#4 0#4 15#4 0#3 0#4) = false ∧
    (∃ t, exec (.mcr .al 0#3 1#4 0#4 15#4 0#3 0#4) flat = .next t) ∧ mayWritePsr (.swi .al 0#24) = false ∧
    ∃ t, exec (.swi .al 0#24) flat = .next t := ⟨rfl, ⟨_, rfl⟩, rfl, _, rfl⟩

theorem test_meets_SwapResult :
    transferState.plat.cpu = .cpu020 ∧ illegalAddress (regOrR15 8 0 2#4 transferState) = true ∧
    illegalAddress (regOrR15 8 0 3#4 transferState) = false ∧
    ∃ word t v, extRead (busWord (regOrR15 8 0 3#4 transferState)) (modeTranslate transferState) transferState = .done word t ∧
      memWrite (swapAddress .word (regOrR15 8 0 3#4 transferState)) .word (regOrR15 12 1 0#4 transferState)
        (modeTranslate transferState) t = .done () v := ⟨rfl, by decide, by decide, _, _, _, rfl, rfl⟩

theorem test_meets_SwapResult_byte_and_write_aborts :
    (∃ word t v, extRead (busAddress (regOrR15 8 0 3#4 transferState)) (modeTranslate transferState) transferState = .done word t ∧
      memWrite (swapAddress .byte (regOrR15 8 0 3#4 transferState)) .byte (repeatByte (regOrR15 12 1 0#4 transferState))
        (modeTranslate transferState) t = .done () v) ∧
    pagedState.plat.cpu = .cpu020 ∧ illegalAddress (regOrR15 8 0 1#4 pagedState) = false ∧
    ∃ word t v v2, extRead (busAddress (regOrR15 8 0 1#4 pagedState)) (modeTranslate pagedState) pagedState = .done word t ∧
      memWrite (swapAddress .word (regOrR15 8 0 1#4 pagedState)) .word (regOrR15 12 1 0#4 pagedState)
        (modeTranslate pagedState) t = .abort v ∧
      memWrite (swapAddress .byte (regOrR15 8 0 1#4 pagedState)) .byte (repeatByte (regOrR15 12 1 0#4 pagedState))
        (modeTranslate pagedState) t = .abort v2 := ⟨⟨_, _, _, rfl, rfl⟩, rfl, by decide, _, _, _, _, rfl, rfl, rfl⟩

theorem test_meets_SwapResult_read_aborts :
    illegalAddress (regOrR15 8 0 2#4 pagedState) = false ∧
    ∃ t v v2, extRead (busWord (regOrR15 8 0 2#4 pagedState)) (modeTranslate pagedState) pagedState = .abort t ∧
      memWrite (swapAddress .word (regOrR15 8 0 2#4 pagedState)) .word (regOrR15 12 1 0#4 pagedState)
        (modeTranslate pagedState) t = .abort v ∧
      memWrite (swapAddress .byte (regOrR15 8 0 2#4 pagedState)) .byte (repeatByte (regOrR15 12 1 0#4 pagedState))
        (modeTranslate pagedState) t = .abort v2 := ⟨by decide, _, _, _, rfl, rfl, rfl⟩

theorem test_meets_SwapPlain :
    transferState.cut = none ∧ transferState.plat.hasMemc = false ∧ Memory.wf transferState.mem = true ∧ transferState.hazard = .none ∧
    (0#4 : Reg) ≠ 15#4 ∧ illegalAddress (regOrR15 8 0 3#4 transferState) = false := by decide

/-- R0 so that a block of two words ends at the top of memory. -/
def blockState : State := withRegs [0x03FFFFF8, 5] flat

theorem test_meets_BlockResult :
    (0x0003#16) ≠ 0#16 ∧ illegalAddress (blockStart false true 0x0003#16 (regOrR15 8 0 0#4 blockState)) = false ∧
    (∃ t, storeWords (modeTranslate blockState) false (listedRegs 0x0003#16) none 0 0x03FFFFF8#26 blockState = .done false t) ∧
    (∃ t, storeWords (modeTranslate pagedState) false (listedRegs 0x0003#16) none 0 0x00000100#26 pagedState = .done true t) ∧
    (∃ t, loadWords (modeTranslate blockState) (listedRegs 0x0003#16) 0x03FFFFF8#26 blockState =
      .done ([0#32, 0#32].map some) t) ∧
    ∃ t, loadWords (modeTranslate pagedState) (listedRegs 0x0007#16) 0x00000FF8#26 pagedState =
      .done ([0#32, 0#32].map some ++ none :: []) t := ⟨by decide, by decide, ⟨_, rfl⟩, ⟨_, rfl⟩, ⟨_, rfl⟩, _, rfl⟩

theorem test_meets_StmPlain_LdmPlain :
    blockState.cut = none ∧ blockState.plat.hasMemc = false ∧ cacheOn blockState = false ∧ Memory.wf blockState.mem = true ∧ blockState.hazard = .none ∧
    illegalAddress (blockStart false true 0x0003#16 (regOrR15 8 0 0#4 blockState)) = false ∧
    (alignWord (busAddress (blockStart false true 0x0003#16 (regOrR15 8 0 0#4 blockState)))).toNat +
      4 * (listedRegs 0x0003#16).length ≤ 2 ^ 26 := by decide

theorem test_meets_Cp15Transfers :
    condPassed .al flat.psr = true ∧ flat.plat.cpu = .cpu020 ∧ flat.psr.mode ≠ .user := by decide

theorem test_meets_SpecRefusals :
    flat.plat.cpu = .cpu020 ∧ flat.psr.mode ≠ .user ∧ 6 ≤ (6#4 : Reg).toNat ∧ ¬ ((1#3 : BitVec 3) = 0#3) := by decide

theorem test_meets_CoprocAbsentOrBusy :
    coprocessorOf (.cdo .al 0#4 0#4 0#4 1#4 0#3 0#4) = some 1#4 ∧ isInternal 1#4 flat = false ∧ flat.coprocs = [] ∧
    (∃ t, offer 1#4 (encode (.cdo .al 0#4 0#4 0#4 1#4 0#3 0#4)) (withCp [.busy] [] flat) = (.busy, t)) ∧
    (∃ t, offer 1#4 (encode (.cdo .al 0#4 0#4 0#4 1#4 0#3 0#4)) (withCp [.absent] [] flat) = (.absent, t)) ∧
    coprocessorOf (.ldc .al true true false false 0#4 1#4 15#4 4#8) = some 15#4 ∧ (inMode .user flat).psr.mode = .user := ⟨rfl, rfl, rfl, ⟨_, rfl⟩, ⟨_, rfl⟩, rfl, rfl⟩

theorem test_meets_CoprocReady :
    isInternal 1#4 (withCp [.ready] [9] flat) = false ∧
    (∃ t, offer 1#4 (encode (.cdo .al 0#4 0#4 0#4 1#4 0#3 0#4)) (withCp [.ready] [9] flat) = (.ready, t)) ∧
    (∃ t, offer 1#4 (encode (.mcr .al 0#3 0#4 0#4 1#4 0#3 0#4)) (withCp [.ready] [9] flat) = (.ready, t)) ∧
    ∃ t x, offer 1#4 (encode (.mrc .al 0#3 0#4 0#4 1#4 0#3 0#4)) (withCp [.ready] [9] flat) = (.ready, t) ∧
      takeSupply 1#4 t = (9#32, x) := ⟨rfl, ⟨_, rfl⟩, ⟨_, rfl⟩, _, _, rfl, rfl⟩

/-- A ready coprocessor 1, R2 in memory, R3 illegal. -/
def cpState : State := withCp [.ready] [9] (withRegs [0, 0, 0x1000, 0x04000000] flat)

theorem test_meets_CoprocTransfers :
    isInternal 1#4 cpState = false ∧ illegalAddress (coprocAddress true true 3#4 0#8 cpState) = true ∧
    illegalAddress (coprocAddress true true 2#4 0#8 cpState) = false ∧
    (∃ t t1 t2 v, offer 1#4 (encode (.ldc .al true true false false 2#4 0#4 1#4 0#8)) cpState = (.ready, t) ∧
      takeLength 1#4 t = (0, t1) ∧
      coprocLoad 1#4 (encode (.ldc .al true true false false 2#4 0#4 1#4 0#8)) false 0 0 0x1000#26 t1 = .done false t2 ∧
      extraRead false 0x1004#26 t2 = .done () v) ∧
    ∃ t t1 t2, offer 1#4 (encode (.stc .al true true false false 2#4 0#4 1#4 0#8)) cpState = (.ready, t) ∧
      takeLength 1#4 t = (0, t1) ∧
      coprocStore 1#4 (encode (.stc .al true true false false 2#4 0#4 1#4 0#8)) false 0 0 0x1000#26 t1 = .done false t2 := ⟨rfl, by decide, by decide, ⟨_, _, _, _, rfl, rfl, rfl, rfl⟩, _, _, _, rfl, rfl, rfl⟩

theorem test_meets_CoprocTransferPlain :
    cpState.cut = none ∧ cpState.plat.hasMemc = false ∧ Memory.wf cpState.mem = true ∧ cacheOn cpState = false ∧
    (cpState.coprocs.find? fun x => x.num = 1#4) = some ⟨1#4, [.ready], [9], [], []⟩ ∧
    illegalAddress (coprocAddress true true 2#4 0#8 cpState) = false := by decide

theorem test_meets_MemcTranslation :
    pagedState.plat.hasMemc = true ∧ pagedState.memc.boot = .normal ∧ (0x100#26).toNat < 0x2000000 ∧
    pagedState.memc.pageSize = pagedState.plat.ram.pageCode ∧
    (∀ j : Fin 128, pagedState.memc.entries[j].lpn.toNat = 0x100 / 4096 ↔ j = 5) ∧
    ∀ j : Fin 128, pagedState.memc.entries[j].lpn.toNat ≠ 0x1FFFFFC / 4096 := by decide

theorem test_meets_UserMode_statements :
    pagedState.plat.hasMemc = true ∧ pagedState.memc.boot = .normal ∧ pagedState.psr.mode = .user ∧ pagedState.hazard = .none ∧ pagedState.midEvents = [] ∧
    (∃ t, exec (.strb .al true true false 2#4 0#4 (.imm 0#12)) pagedState = .next t) ∧
    ∃ t, exec (.mov .al true 0#4 15#4 (.shImm 0#5 .lsl 0#4)) pagedState = .next t := ⟨rfl, rfl, rfl, rfl, rfl, ⟨_, rfl⟩, _, rfl⟩

theorem test_meets_MemcBootAndControl :
    State.reset.plat.hasMemc = true ∧ bootNext 0x0#26 State.reset.memc.boot ≠ .normal ∧
    bootNext 0x0FFFFFC#26 .boot0 = .boot1 ∧ bootNext 0x1000000#26 .boot0 = .boot0 ∧ bootNext 0x1FFFFFC#26 .boot1 = .boot1 ∧
    bootNext 0x2000000#26 .boot1 = .normal ∧
    field (0x36E0000#26) 17 3 = 7#3 ∧ field (0x36E0000#26) 2 2 = State.reset.memc.pageSize ∧
    field (0x36E000C#26) 17 3 = 7#3 ∧ field (0x36E000C#26) 2 2 ≠ State.reset.memc.pageSize ∧
    bit (0x36E0000#26) 13 = false ∧ bit (0x36E2000#26) 13 = true ∧ field (0x36E2000#26) 17 3 = 7#3 := by decide

theorem test_meets_MemcBootAndControl_dma :
    field (0x3600000#26) 17 3 = 0#3 ∧ field (0x3620000#26) 17 3 = 1#3 ∧ field (0x3640000#26) 17 3 = 2#3 ∧
    field (0x3660000#26) 17 3 = 3#3 ∧ field (0x3680000#26) 17 3 = 4#3 ∧ field (0x36A0000#26) 17 3 = 5#3 ∧
    field (0x36C0000#26) 17 3 = 6#3 := by decide

theorem test_meets_TranslatorWrite :
    full.memc.pageSize = 0#2 ∧ bit (0x3800185#26) 7 = true ∧ bit (0x3FFFF7F#26) 7 = false ∧ bit (0x3F08C1B#26) 7 = false := by decide

/-- A programmed VIDC in the vertical sync pulse, with requests that stand. -/
def programmedVidc : Vidc :=
  { full.vidc with sfr := 0x1FF, written := 0xFFFFFFFFFFFFFFFF, videoWanted := 1, cursorWanted := true }

/-- R386. -/
theorem test_no_request_in_vertical_sync :
    (programmedVidc.vdrqLow, { programmedVidc with vcount := 1 }.vdrqLow) = (false, true) := by decide

/-- Everything asked for and enabled. -/
def dmaState : State :=
  { full with
    memc := { full.memc with videoDma := true, soundDma := true }
    vidc := { full.vidc with videoWanted := 2, cursorWanted := true, soundWanted := true } }

theorem test_meets_DmaTransfers :
    dmaState.plat.hasMemc = true ∧ dmaState.plat.hasVidc = true ∧ dmaState.memc.testMode = false ∧
    dmaState.memc.pageSize = dmaState.plat.ram.pageCode ∧ dmaState.memc.videoDma = true ∧ dmaState.memc.soundDma = true ∧
    dmaState.vidc.videoWanted ≠ 0#2 ∧ dmaState.vidc.cursorWanted = true ∧ dmaState.vidc.soundWanted = true ∧
    dmaState.memc.cursorNext = false ∧ { dmaState.memc with cursorNext := true }.cursorNext = true ∧
    full.memc.videoDma = false ∧ full.memc.soundDma = false ∧ full.vidc.videoWanted = 0#2 ∧ full.vidc.cursorWanted = false ∧
    dmaState.vidc.programmed = false ∧ programmedVidc.programmed = true ∧ programmedVidc.vcount.toNat ≤ programmedVidc.vswr.toNat ∧
    full.memc.refresh ≠ 3#2 ∧ full.memc.refresh ≠ 1#2 ∧ { full.memc with refresh := 1 }.refresh = 1#2 ∧ vidcState.vidc.flbk = true := by decide

theorem test_meets_VidcRegisters :
    (0x3C000000#32).toNat / 2 ^ 26 = 15 ∧ (0x40000000#32).toNat / 2 ^ 26 = 16 ∧ (0x4C000000#32).toNat / 2 ^ 26 = 17 + 2 ∧
    (0x60000000#32).toNat / 2 ^ 26 = 24 + (7 + 1) % 8 ∧ (0x7C000000#32).toNat / 2 ^ 26 = 24 + (6 + 1) % 8 ∧
    (0x9C000000#32).toNat / 2 ^ 26 = 32 + 7 ∧ (0x98000000#32).toNat / 2 ^ 26 = 38 ∧ (0xBC000000#32).toNat / 2 ^ 26 = 40 + 7 ∧
    (0xC0000100#32).toNat / 2 ^ 26 = 48 ∧ bit (0xC0000100#32) 8 = true ∧ bit full.vidc.sfr 8 = false ∧
    (0xE000002B#32).toNat / 2 ^ 26 = 56 ∧ field (0xE000002B#32) 14 2 = 0#2 ∧ field (0xE0004000#32) 14 2 ≠ 0#2 ∧
    (0x50000000#32).toNat / 2 ^ 26 = 20 ∧ (0xDC000000#32).toNat / 2 ^ 26 = 55 ∧ (0xE4000000#32).toNat / 2 ^ 26 = 57 := by decide

theorem test_meets_TimerPeriod :
    { full.ioc with timers := full.ioc.timers.set 0 ⟨0, 1, 0, false⟩ }.timers[0].inLatch ≠ 0#16 ∧ full.ioc.coinciding = false ∧
    full.ioc.timers[0].extra = false ∧ { full.ioc with timers := full.ioc.timers.set 0 ⟨0, 1, 0, true⟩ }.timers[0].extra = true ∧
    bit (goTimer 3 full).ioc.lastGo 3 = true ∧ bit full.ioc.lastClear 3 = false ∧
    full.ioc.rxReady = false ∧ full.ioc.rx = none ∧ full.ioc.srx = false ∧ full.ioc.rxSpoiled = false ∧
    (readSerial full).2.ioc.rxReady = true := by decide

theorem test_meets_IocInterrupts :
    full.plat.hasIoc = true ∧ full.ioc.maskA = 0#8 ∧ full.ioc.maskB = 0#8 ∧ full.ioc.maskF = 0#8 := by decide

/-- Cache on, every area cacheable and updateable, the upper eight disruptive. -/
def cacheState : State := { flat with cp15 := ⟨3#3, 0xFFFFFFFF#32, 0x0000FFFF#32, 0xFF000000#32⟩ }

/-- The same holding the line of 0x1000. -/
def lineState : State := { cacheState with cache := [⟨tagOf 0x1000#26, .shared, 1, 2, 3, 4⟩] }

theorem test_meets_CacheFillThenHit :
    cacheOn cacheState = true ∧ cacheLookup 0x1000#26 false cacheState = none ∧ cacheable 0x1000#26 cacheState = true ∧
    (∃ w t, memRead 0x1000#26 false cacheState = .done w t) ∧ cacheOn lineState = true ∧
    cacheLookup 0x1004#26 false lineState = some ⟨tagOf 0x1000#26, .shared, 1, 2, 3, 4⟩ ∧
    cacheState.plat.hasMemc = false ∧ cacheState.cut = none ∧ cacheState.midEvents = [] ∧ tagOf 0x100C#26 = tagOf 0x1000#26 ∧
    ∃ s0 s1 s2 s3 w0 w1 w2 w3, extRead 0x1000#26 false cacheState = .done w0 s0 ∧ extRead (0x1000#26 + 4) false s0 = .done w1 s1 ∧
      extRead (0x1000#26 + 8) false s1 = .done w2 s2 ∧ extRead (0x1000#26 + 12) false s2 = .done w3 s3 := ⟨by decide, by decide, by decide, ⟨_, _, rfl⟩, by decide, by decide, rfl, rfl, rfl, by decide, _, _, _, _, _, _, _, _, rfl, rfl, rfl, rfl⟩

theorem test_meets_CacheWrites :
    lineState.plat.cpu = .cpu020 ∧ lineState.cut = none ∧ lineState.midEvents = [] ∧ disruptive 0x1000#26 lineState = false ∧ updateable 0x1000#26 lineState = true ∧
    cacheLookup 0x1000#26 false lineState ≠ none ∧ disruptive 0x3FFFFFC#26 lineState = true ∧
    disruptive 0x2000000#26 lineState = false ∧ updateable 0x2000000#26 lineState = false ∧
    (∃ t, memWrite 0x1000#26 .byte 0x99#32 false lineState = .done () t) ∧
    (∃ t, memWrite 0x3FFFFFC#26 .word 0x99#32 false lineState = .done () t) ∧
    ∃ t, memWrite 0x2000000#26 .word 0x99#32 false lineState = .done () t := ⟨rfl, rfl, rfl, by decide, by decide, by decide, by decide, by decide, by decide, ⟨_, rfl⟩, ⟨_, rfl⟩, _, rfl⟩

theorem test_meets_InvStep :
    Inv stepState ∧ ∃ t, step stepState = .next t := ⟨⟨by decide, ⟨by decide, by decide⟩, by decide, (by decide : ∀ k : Fin 128, (stepState.memc.entries[k].lpn).toNat < 2 ^ (13 - stepState.memc.pageSize.toNat)), rfl⟩, _, rfl⟩

theorem test_meets_SystemReset :
    ¬ (flat.plat.cpu = .cpu020 ∧ (ResetInput.mk .warm (some 1) false).tooShort = true) ∧ flat.held = none ∧
    (hold .memcTestMode flat).held ≠ none ∧ (hold .memcTestMode flat).pipe.length ≤ 1 ∧
    (∃ t, (fillPipe flat).out (fun _ t => .next (hold .noIoController t)) (fun t => .next t) = .next t ∧ t.held ≠ none ∧
      ∃ w p sl₁ sl₂, t.pipe = [⟨.word w, p⟩, sl₁, sl₂]) ∧
    (∃ t, (fetchMore 2 flat).out (fun _ t => .next (hold .noIoController t)) (fun t => .next t) = .next t ∧ t.held ≠ none ∧
      t.pipe.length = 2 ∧ ∃ u, executeHead (abandoned exec) { t with held := none, cut := some 0 } = .next u) ∧ { flat with cut := some 0 }.cut = some 0 ∧
    (∃ u, runBoundary (abandoned exec) false false { stepState with cut := some 1 } = .next u) ∧
    ∃ t, exec (.mov .al false 0#4 0#4 (.shImm 0#5 .lsl 1#4)) flat = .next t := ⟨by decide, rfl, by decide, by decide, ⟨_, rfl, by decide, _, _, _, _, rfl⟩, ⟨_, rfl, by decide, rfl, _, rfl⟩, rfl, ⟨_, rfl⟩, _, rfl⟩

theorem test_meets_PrefetchOverlap :
    flat.pipe.length ≤ 3 ∧ (∃ t, fillPipe flat = .done () t) ∧ (∃ t, memWrite 4#26 .word 7#32 false flat = .done () t) ∧ flat.cut = none ∧
    (writesPc (.mov .al false 0#4 15#4 (.imm 0#4 0#8)) = true ∧ ∃ t, exec (.mov .al false 0#4 15#4 (.imm 0#4 0#8)) flat = .next t ∧ t.held = none) ∧
    (writesPc (.ldr .al true true false 1#4 15#4 (.imm 0#12)) = true ∧ ∃ t, exec (.ldr .al true true false 1#4 15#4 (.imm 0#12)) flat = .next t ∧ t.held = none) ∧
    (writesPc (.ldrb .al false true false 15#4 0#4 (.imm 0#12)) = true ∧ ∃ t, exec (.ldrb .al false true false 15#4 0#4 (.imm 0#12)) flat = .next t ∧ t.held = none) ∧
    (writesPc (.str .al true true true 15#4 0#4 (.imm 0#12)) = true ∧ ∃ t, exec (.str .al true true true 15#4 0#4 (.imm 0#12)) flat = .next t ∧ t.held = none) ∧
    (writesPc (.swp .al 1#4 15#4 2#4) = true ∧ ∃ t, exec (.swp .al 1#4 15#4 2#4) flat = .next t ∧ t.held = none) ∧
    (writesPc (.ldm .al true true false true 1#4 0x8000#16) = true ∧ ∃ t, exec (.ldm .al true true false true 1#4 0x8000#16) flat = .next t ∧ t.held = none) ∧
    (writesPc (.swi .al 0#24) = true ∧ ∃ t, exec (.swi .al 0#24) flat = .next t ∧ t.held = none) ∧
    (writesPc (.undB .al 0#20 0#4) = true ∧ ∃ t, exec (.undB .al 0#20 0#4) flat = .next t ∧ t.held = none) := ⟨by decide, ⟨_, rfl⟩, ⟨_, rfl⟩, rfl, ⟨by decide, _, rfl, rfl⟩, ⟨by decide, _, rfl, rfl⟩, ⟨by decide, _, rfl, rfl⟩, ⟨by decide, _, rfl, rfl⟩, ⟨by decide, _, rfl, rfl⟩, ⟨by decide, _, rfl, rfl⟩, ⟨by decide, _, rfl, rfl⟩, ⟨by decide, _, rfl, rfl⟩⟩

end Sys2Proof.Tests
end

section
/-! PROOFS. The register banks and the state after reset (10_state.md). -/

namespace Sys2Proof.Machine

/-! ## Which physical register a number names (R22) -/

theorem toNat_lt_of_ne_r15 {n : Reg} (h : n ≠ 15#4) : n.toNat < 15 := by
  have : n.toNat ≠ 15 := fun e => h (BitVec.eq_of_toNat_eq e)
  omega

/-- A bank of `k` registers that holds the numbers from `b` up to 14. -/
theorem bank_index {n : Reg} {b k : Nat} [NeZero k] (hn : n ≠ 15#4) (hb : b ≤ n.toNat) (hk : b + k = 15) :
    (Fin.ofNat k (n.toNat - b)).val + b = n.toNat := by
  have := toNat_lt_of_ne_r15 hn
  rw [Fin.val_ofNat, Nat.mod_eq_of_lt (by omega)]
  omega

theorem phys_firq_high {n : Reg} (hn : n ≠ 15#4) (h : 8 ≤ n.toNat) :
    ∃ k : Fin 7, k.val + 8 = n.toNat ∧ phys .firq n = .fiq k :=
  ⟨_, bank_index hn h rfl, by simp [phys, h]⟩

theorem phys_irq_high {n : Reg} (hn : n ≠ 15#4) (h : 13 ≤ n.toNat) :
    ∃ k : Fin 2, k.val + 13 = n.toNat ∧ phys .irq n = .irq k :=
  ⟨_, bank_index hn h rfl, by simp [phys, h]⟩

theorem phys_svc_high {n : Reg} (hn : n ≠ 15#4) (h : 13 ≤ n.toNat) :
    ∃ k : Fin 2, k.val + 13 = n.toNat ∧ phys .svc n = .svc k :=
  ⟨_, bank_index hn h rfl, by simp [phys, h]⟩

/-- Every number names a User copy in User mode. -/
theorem phys_user (n : Reg) : phys .user n = .usr (Fin.ofNat 15 n.toNat) := by simp [phys]

/-- R0 to R7 in every mode, and R8 to R12 outside FIRQ mode, are the User copies. -/
theorem phys_eq_user {m : Mode} {n : Reg} (h : m = .user ∨ n.toNat < 8 ∨ (m ≠ .firq ∧ n.toNat < 13)) :
    phys m n = phys .user n := by
  cases m with
  | user => rfl
  | firq =>
    have low : ¬ 8 ≤ n.toNat := by simp at h; omega
    simp [phys, low]
  | irq | svc =>
    have low : ¬ 13 ≤ n.toNat := by simp at h; omega
    simp [phys, low]

theorem phys_user_index {n : Reg} (hn : n ≠ 15#4) : ∃ k : Fin 15, k.val = n.toNat ∧ phys .user n = .usr k :=
  ⟨Fin.ofNat 15 n.toNat, Nat.mod_eq_of_lt (toNat_lt_of_ne_r15 hn), phys_user n⟩

/-- R0 to R7 are the same registers in all modes. -/
theorem phys_low {n : Reg} (h : n.toNat < 8) (m m' : Mode) : phys m n = phys m' n :=
  (phys_eq_user (.inr (.inl h))).trans (phys_eq_user (.inr (.inl h))).symm

theorem phys_eq_iff {m : Mode} {a b : Reg} (ha : a ≠ 15#4) (hb : b ≠ 15#4) : phys m a = phys m b ↔ a = b :=
  ⟨phys_inj ha hb, fun h => h ▸ rfl⟩

/-! ## Reading back (R22) -/

theorem readReg_writeReg {s : State} (h : s.hazard = .none) {a b : Reg} (ha : a ≠ 15#4) (hb : b ≠ 15#4) (v : Word)
    (i j : Nat) : readReg i b (writeReg j a v s) = if b = a then v else readReg i b s := by
  have hw : (writeReg j a v s).hazard = .none := h
  rw [readReg_plain hw, readReg_plain h, writeReg_regs, writeReg_psr, writeBank_plain h, getPhys_setPhys]
  simp only [phys_eq_iff hb ha]

/-! ## The bank hazards (R500, R501) -/

theorem readBank_modeChange {s : State} {old : Mode} {d : Nat} (h : s.hazard = .modeChange old d) (pos : Nat) :
    readBank pos s = s.psr.mode ∨ readBank pos s = old := by
  simp only [readBank, h]
  split
  · exact .inr rfl
  · exact .inl rfl

/-- Under the hazard of R500 a field writes the bank that it reads. -/
theorem writeBank_modeChange {s : State} {old : Mode} {d : Nat} (h : s.hazard = .modeChange old d) (pos : Nat) :
    writeBank pos s = readBank pos s := by simp only [writeBank, readBank, h]

theorem readBank_userBank {s : State} {d : Nat} (h : s.hazard = .userBank d) (pos : Nat) :
    readBank pos s = s.psr.mode ∨ readBank pos s = .user := by
  simp only [readBank, h]
  split
  · exact .inr rfl
  · exact .inl rfl

theorem writeBank_userBank {s : State} {d : Nat} (h : s.hazard = .userBank d) (pos : Nat) :
    writeBank pos s = s.psr.mode := by simp only [writeBank, h]

/-- A register that all banks share is read and written in spite of any hazard. -/
theorem readReg_low {n : Reg} (h : n.toNat < 8) (pos : Nat) (s : State) :
    readReg pos n s = getPhys s.regs (phys s.psr.mode n) := by
  rw [readReg, phys_low h (readBank pos s) s.psr.mode]

theorem writeReg_low {n : Reg} (h : n.toNat < 8) (pos : Nat) (v : Word) (s : State) :
    (writeReg pos n v s).regs = setPhys s.regs (phys s.psr.mode n) v := by
  rw [writeReg_regs, phys_low h (writeBank pos s) s.psr.mode]

/-- Settles O16: the banks by the rows of R22, reading back by `phys_inj` in the one mode, the hazards by the two banks
that a register field can be given. -/
theorem registerBanks : Obligations.RegisterBanks := by
  refine ⟨?banks, ?readBack, ?modeChange, ?userBank⟩
  case banks =>
    intro m n hn
    refine ⟨?_, ?_, ?_, fun h => phys_eq_user h ▸ phys_user_index hn⟩
    · rintro ⟨rfl, h⟩; exact phys_firq_high hn h
    · rintro ⟨rfl, h⟩; exact phys_irq_high hn h
    · rintro ⟨rfl, h⟩; exact phys_svc_high hn h
  case readBack => exact fun s a b v i j h ha hb => readReg_writeReg h ha hb v i j
  case modeChange =>
    intro s old d pos n v h _
    refine ⟨?_, ?_, fun low => ⟨readReg_low low pos s, writeReg_low low pos v s⟩⟩
    · exact (readBank_modeChange h pos).imp (fun e => by rw [readReg, e]) (fun e => by rw [readReg, e])
    · rw [writeReg_regs, writeBank_modeChange h]
      exact (readBank_modeChange h pos).imp (fun e => by rw [e]) (fun e => by rw [e])
  case userBank =>
    intro s d pos n v h _
    refine ⟨?_, by rw [writeReg_regs, writeBank_userBank h], fun low => readReg_low low pos s⟩
    exact (readBank_userBank h pos).imp (fun e => by rw [readReg, e]) (fun e => by rw [readReg, e])

/-- Settles O54: every field by evaluation of the reset state. -/
theorem resetState : Obligations.ResetState :=
  ⟨rfl, rfl, rfl, rfl, rfl, rfl, rfl, rfl, rfl, rfl, rfl, rfl, rfl, rfl, rfl, rfl, rfl, rfl⟩

end Sys2Proof.Machine
end

section
/-! PROOFS. What an instruction can do in User mode (10_state.md R22, R26): an invariant that holds while it runs, what holds
where it ends, one rule for each shared operation, and one lemma for each family of instructions. -/

namespace Sys2Proof.Machine

/-! ## What User mode protects -/

/-- Two register files with the same registers of the non-User modes (R22). -/
structure SameBanks (a b : RegFile) : Prop where
  fiq : b.fiq = a.fiq
  irq : b.irq = a.irq
  svc : b.svc = a.svc

/-- An instruction begun in User mode at `s` has got to `t`, with its end still before it. -/
structure UserUnderway (s t : State) : Prop where
  user : s.psr.mode = .user
  psr : t.psr = s.psr
  hazard : t.hazard = s.hazard
  banks : s.hazard = .none → SameBanks s.regs t.regs

/-- `t` has what `s` has of the privileged state: I, F, the mode, and outside a hazard the banks of the other modes. -/
structure KeepsPrivileged (s t : State) : Prop where
  i : t.psr.i = s.psr.i
  f : t.psr.f = s.psr.f
  mode : t.psr.mode = s.psr.mode
  banks : s.hazard = .none → SameBanks s.regs t.regs

/-- How an instruction begun in User mode at `s` can end: with the privileged state kept, or by entering Supervisor mode. -/
def UserEnd (s t : State) : Prop :=
  KeepsPrivileged s t ∨ ∃ e x, e.mode = .svc ∧ t = enter e x ∧ UserUnderway s x

/-- An outcome whose next state, if it has one, is such an end. -/
def EndsUser (s : State) (o : Out) : Prop := ∀ t, o = .next t → UserEnd s t

/-! ## While an instruction runs -/

theorem SameBanks.refl (r : RegFile) : SameBanks r r := ⟨rfl, rfl, rfl⟩

/-- A write of a User register leaves the banks of the other modes alone. -/
theorem SameBanks.setPhys_user {a b : RegFile} (h : SameBanks a b) (n : Reg) (v : Word) :
    SameBanks a (setPhys b (phys .user n) v) := by
  rw [phys_user]
  exact ⟨h.fiq, h.irq, h.svc⟩

theorem UserUnderway.refl {s : State} (h : s.psr.mode = .user) : UserUnderway s s :=
  ⟨h, rfl, rfl, fun _ => .refl _⟩

namespace UserUnderway

variable {s t u : State}

theorem mode (h : UserUnderway s t) : t.psr.mode = .user := h.psr ▸ h.user

/-- A change that touches neither the registers, the PSR nor the hazard. -/
theorem congr (h : UserUnderway s t) (hr : u.regs = t.regs) (hp : u.psr = t.psr) (hh : u.hazard = t.hazard) :
    UserUnderway s u :=
  ⟨h.user, hp.trans h.psr, hh.trans h.hazard, fun n => hr ▸ h.banks n⟩

theorem core (h : UserUnderway s t) (c : SameCore t u) : UserUnderway s u := h.congr c.regs c.psr c.hazard

/-- Outside a hazard every register field writes the User bank. -/
theorem writeBank_user (h : UserUnderway s t) (n : s.hazard = .none) (pos : Nat) : writeBank pos t = .user :=
  (writeBank_plain (h.hazard.trans n) pos).trans h.mode

/-- A write of a physical register that is, outside a hazard, a User register. -/
theorem setPhys (h : UserUnderway s t) {p : PhysReg} (hp : s.hazard = .none → ∃ n, p = phys .user n) (v : Word) :
    UserUnderway s { t with regs := setPhys t.regs p v } := by
  refine ⟨h.user, h.psr, h.hazard, fun n => ?_⟩
  obtain ⟨r, rfl⟩ := hp n
  exact (h.banks n).setPhys_user r v

theorem writeReg (h : UserUnderway s t) (pos : Nat) (n : Reg) (v : Word) : UserUnderway s (writeReg pos n v t) :=
  h.setPhys (fun k => ⟨n, by rw [h.writeBank_user k]⟩) v

theorem writeUser (h : UserUnderway s t) (n : Reg) (v : Word) : UserUnderway s (writeUser n v t) :=
  h.setPhys (fun _ => ⟨n, rfl⟩) v

theorem writeBackReg (h : UserUnderway s t) (p w : Bool) (rn : Reg) (v : Word) :
    UserUnderway s (writeBackReg p w rn v t) := by
  unfold Machine.writeBackReg
  split
  · exact h.writeReg 4 rn v
  · exact h

theorem drawWord (h : UserUnderway s t) : UserUnderway s (drawWord t).2 := h.congr rfl rfl rfl

theorem updateCoproc (h : UserUnderway s t) (num : Reg) (f : Coproc → Coproc) :
    UserUnderway s (updateCoproc num f t) :=
  h.congr rfl rfl rfl

theorem recordEvent (h : UserUnderway s t) (num : Reg) (e : CpEvent) : UserUnderway s (recordEvent num e t) :=
  h.updateCoproc num _

theorem offer (h : UserUnderway s t) (num : Reg) (w : Word) : UserUnderway s (offer num w t).2 := by
  unfold Machine.offer
  split
  · exact h
  · exact h.updateCoproc num _

theorem takeSupply (h : UserUnderway s t) (num : Reg) : UserUnderway s (takeSupply num t).2 := by
  unfold Machine.takeSupply
  split
  · exact h.updateCoproc num _
  · exact h.drawWord

theorem takeLength (h : UserUnderway s t) (num : Reg) : UserUnderway s (takeLength num t).2 := by
  unfold Machine.takeLength
  split
  · exact h.updateCoproc num _
  · exact h

/-! ## Accesses -/

theorem read (h : UserUnderway s t) {α : Type} {b : Bus α} (r : leaves (SameStore t) b) : leaves (UserUnderway s) b :=
  leaves_mono r fun _ same => h.core same.1

theorem memRead (h : UserUnderway s t) (a : Addr) (tr : Bool) : leaves (UserUnderway s) (memRead a tr t) :=
  h.read (memRead_same a tr t)

theorem memWrite (h : UserUnderway s t) (a : Addr) (z : Size) (d : Word) (tr : Bool) :
    leaves (UserUnderway s) (memWrite a z d tr t) :=
  leaves_mono (memWrite_core a z d tr t) fun _ same => h.core same

end UserUnderway

/-! ## Where an instruction ends -/

theorem KeepsPrivileged.congr {s t u : State} (h : KeepsPrivileged s t) (hr : u.regs = t.regs) (hp : u.psr = t.psr) :
    KeepsPrivileged s u :=
  ⟨hp ▸ h.i, hp ▸ h.f, hp ▸ h.mode, fun n => hr ▸ h.banks n⟩

theorem UserUnderway.keeps {s t : State} (h : UserUnderway s t) : KeepsPrivileged s t :=
  ⟨by rw [h.psr], by rw [h.psr], by rw [h.psr], h.banks⟩

/-- The flags are not privileged. -/
theorem UserUnderway.keeps_setFlags {s t : State} (h : UserUnderway s t) (n z c v : Bool) :
    KeepsPrivileged s { t with psr := t.psr.setFlags n z c v } :=
  ⟨h.keeps.i, h.keeps.f, h.keeps.mode, h.banks⟩

/-- In User mode a write of the PSR reaches the flags only (R26, R125). -/
theorem UserUnderway.keeps_writePsr {s t : State} (h : UserUnderway s t) (v : Word) :
    KeepsPrivileged s { t with psr := writePsr v t.psr } := by
  obtain ⟨hi, hf, hm⟩ := writePsr_user h.mode v
  exact ⟨hi.trans h.keeps.i, hf.trans h.keeps.f, hm.trans h.user.symm, h.banks⟩

namespace EndsUser

variable {s t : State}

theorem next (h : KeepsPrivileged s t) : EndsUser s (.next t) := by
  rintro u ⟨⟩
  exact .inl h

theorem refused (r : Refusal) : EndsUser s (.refused r) := fun _ h => nomatch h

theorem finish (h : KeepsPrivileged s t) : EndsUser s (finish t) := next (h.congr rfl rfl)

theorem finishJump (h : KeepsPrivileged s t) (target : PcWord) : EndsUser s (finishJump target t) :=
  next (h.congr rfl rfl)

theorem returnTo (h : UserUnderway s t) (v : Word) : EndsUser s (returnTo v t) :=
  next ((h.keeps_writePsr v).congr rfl rfl)

theorem finishPsr (h : UserUnderway s t) (v : Word) : EndsUser s (finishPsr v t) := by
  refine next ((h.keeps_writePsr v).congr ?_ ?_) <;> dsimp only <;> split <;> rfl

/-- The exceptions that an instruction itself takes enter Supervisor mode. -/
theorem raise (h : UserUnderway s t) {e : Exc} (he : e.mode = .svc) : EndsUser s (raise e t) := by
  rintro u ⟨⟩
  exact .inr ⟨e, t, he, rfl, h⟩

theorem dataAbort (h : UserUnderway s t) : EndsUser s (Machine.raise .dataAbort t) := raise h rfl

theorem conditional {run : State → Out} {c : Cond} (h : UserUnderway s s) (hrun : EndsUser s (run s)) :
    EndsUser s (conditional c s run) := by
  intro t ht
  obtain ⟨-, rfl⟩ | ⟨-, ht⟩ := conditional_cases ht
  · exact finish h.keeps _ rfl
  · exact hrun t ht

/-- The end of an instruction after its accesses. -/
theorem out {α : Type} {b : Bus α} {ok : α → State → Out} {bad : State → Out} (hb : leaves (UserUnderway s) b)
    (hok : ∀ v u, UserUnderway s u → EndsUser s (ok v u)) (hbad : ∀ u, UserUnderway s u → EndsUser s (bad u)) :
    EndsUser s (b.out ok bad) := by
  cases b with
  | done v u => exact hok v u hb
  | abort u => exact hbad u hb
  | held u => exact next hb.keeps
  | refused r => exact refused r

theorem finishTransfer (h : UserUnderway s t) (p w : Bool) (rn : Reg) (modified : Word) :
    EndsUser s (finishTransfer p w rn modified t) := by
  unfold Machine.finishTransfer
  split
  · exact finishJump h.keeps _
  · exact finish h.keeps

/-! ## The instructions without memory access -/

theorem dataProcessing (h : UserUnderway s s) (writes : Bool) (alu : Alu) (c : Cond) (sb : Bool) (rn rd : Reg)
    (op2 : Op2) : EndsUser s (dataProcessing writes alu c sb rn rd op2 s) := by
  refine conditional h ?_
  have dest (v : Word) : UserUnderway s (if writes then writeReg 3 rd v s else s) := by
    split
    · exact h.writeReg 3 rd v
    · exact h
  dsimp only
  split
  · split
    · split
      · exact returnTo h _
      · exact finishJump h.keeps _
    · split
      · exact finishPsr h _
      · exact finish h.keeps
  · refine finish ?_
    split
    · exact (dest _).keeps_setFlags _ _ _ _
    · exact (dest _).keeps

theorem finish_scrambleFlags (h : UserUnderway s t) (sb : Bool) :
    EndsUser s (Machine.finish (if sb then scrambleFlags t else t)) := by
  refine finish ?_
  split
  · exact h.drawWord.keeps_setFlags _ _ _ _
  · exact h.keeps

theorem finish_multiplyFlags (h : UserUnderway s t) (sb n z : Bool) :
    EndsUser s (Machine.finish (if sb then multiplyFlags n z t else t)) := by
  refine finish ?_
  split
  · exact h.drawWord.keeps_setFlags _ _ _ _
  · exact h.keeps

theorem execMul (h : UserUnderway s s) (c : Cond) (sb : Bool) (rd rn rs rm : Reg) :
    EndsUser s (execMul c sb rd rn rs rm s) := by
  refine conditional h ?_
  dsimp only
  split
  · exact finish_scrambleFlags h sb
  · split <;> exact finish_multiplyFlags (h.writeReg 3 rd _) sb _ _

theorem execMla (h : UserUnderway s s) (c : Cond) (sb : Bool) (rd rn rs rm : Reg) :
    EndsUser s (execMla c sb rd rn rs rm s) := by
  refine conditional h ?_
  dsimp only
  split
  · exact finish_scrambleFlags h sb
  · split
    · exact finish_multiplyFlags (h.drawWord.drawWord.writeReg 3 rd _) sb _ _
    · exact finish_multiplyFlags (h.writeReg 3 rd _) sb _ _

theorem execBl (h : UserUnderway s s) (c : Cond) (off : BitVec 24) : EndsUser s (execBl c off s) :=
  conditional h (finishJump (h.setPhys (fun _ => ⟨14#4, by rw [h.user]⟩) _).keeps _)

theorem execSwi (h : UserUnderway s s) (c : Cond) (comment : BitVec 24) : EndsUser s (execSwi c comment s) := by
  refine conditional h ?_
  split <;> exact raise h rfl

/-! ## Single transfers and swaps -/

theorem singleLoad (h : UserUnderway s s) (extract : Word → Word → Word) (c : Cond) (p u w : Bool) (rn rd : Reg)
    (off : Offset) : EndsUser s (singleLoad extract c p u w rn rd off s) := by
  refine conditional h ?_
  dsimp only
  split
  · exact raise h rfl
  · refine out (h.memRead _ _) (fun word t ht => ?_) fun t ht => dataAbort ht
    have back := ht.writeBackReg p w rn (singleModified u rn off s)
    split
    · exact finishJump back.keeps _
    · exact finishTransfer (back.writeReg 3 rd _) p w rn _

theorem singleStore (h : UserUnderway s s) (size : Size) (data : Word → Word) (c : Cond) (p u w : Bool) (rn rd : Reg)
    (off : Offset) : EndsUser s (singleStore size data c p u w rn rd off s) := by
  refine conditional h ?_
  dsimp only
  split
  · exact raise h rfl
  · exact out (h.memWrite _ _ _ _) (fun _ t ht => finishTransfer (ht.writeBackReg p w rn _) p w rn _)
      fun t ht => dataAbort ht

theorem swap (h : UserUnderway s s) (size : Size) (extract : Word → Word → Word) (data : Word → Word) (c : Cond)
    (rn rd rm : Reg) : EndsUser s (swap size extract data c rn rd rm s) := by
  refine conditional h ?_
  dsimp only
  split
  · exact raise h rfl
  · split
    · exact raise h rfl
    · refine out (h.read (extRead_same _ _ s)) (fun word t ht => ?_) fun t ht => ?_
      · refine out (ht.memWrite _ _ _ _) (fun _ v hv => ?_) fun v hv => dataAbort hv
        unfold finishSwap
        split
        · exact finishJump hv.keeps _
        · exact finish (hv.writeReg 3 rd _).keeps
      · exact out (ht.memWrite _ _ _ _) (fun _ v hv => dataAbort hv) fun v hv => dataAbort hv

end EndsUser

/-! ## Block transfers -/

/-- A base write-back that goes, outside a hazard, to a User register. -/
def UserTarget (s : State) (wb : Option (PhysReg × Word)) : Prop :=
  ∀ x ∈ wb, s.hazard = .none → ∃ n, x.1 = phys .user n

theorem userTarget_none (s : State) : UserTarget s none := fun _ h => nomatch h

namespace UserUnderway

variable {s t : State}

/-- Outside a hazard the base register is a User register, forced or not. -/
theorem baseReg_user (h : UserUnderway s t) (n : s.hazard = .none) (user : Bool) (rn : Reg) :
    phys (if user then .user else writeBank 4 t) rn = phys .user rn := by
  rw [h.writeBank_user n, ite_self]

theorem blockBase (h : UserUnderway s t) (user w : Bool) (rn : Reg) (final : Word) :
    UserTarget s (blockBase user w rn final t) := by
  unfold Machine.blockBase
  split
  · rintro x ⟨⟩ n
    exact ⟨rn, h.baseReg_user n user rn⟩
  · exact userTarget_none s

theorem applyBase (h : UserUnderway s t) {wb : Option (PhysReg × Word)} (hw : UserTarget s wb) :
    UserUnderway s (applyBase wb t) := by
  cases wb with
  | none => exact h
  | some x => exact h.setPhys (hw x rfl) x.2

theorem storeWords (h : UserUnderway s t) (trans user : Bool) (rs : List Reg) {wb : Option (PhysReg × Word)}
    (hw : UserTarget s wb) (k : Nat) (a : Addr) : leaves (UserUnderway s) (storeWords trans user rs wb k a t) := by
  induction rs generalizing t wb k a with
  | nil => exact h
  | cons r rs ih =>
    have stored := h.memWrite a .word (storedReg user k r t) trans
    have rest {u : State} (hu : UserUnderway s u) := ih (hu.applyBase hw) (userTarget_none s) (k + 1) (a + 4)
    unfold Machine.storeWords
    revert stored
    cases Machine.memWrite a .word (storedReg user k r t) trans t with
    | done _ u => exact fun hu => rest hu
    | abort u => exact fun hu => leaves_bind (rest hu) fun _ _ _ hv => hv
    | held u => exact id
    | refused r => exact id

theorem loadWords (h : UserUnderway s t) (trans : Bool) (rs : List Reg) (a : Addr) :
    leaves (UserUnderway s) (loadWords trans rs a t) := by
  induction rs generalizing t a with
  | nil => exact h
  | cons r rs ih =>
    have read := h.memRead a trans
    unfold Machine.loadWords
    revert read
    cases Machine.memRead a trans t with
    | done w u => exact fun hu => leaves_bind (ih hu (a + 4)) fun _ _ _ hv => hv
    | abort u => exact fun hu => leaves_bind (ih hu (a + 4)) fun _ _ _ hv => hv
    | held u => exact id
    | refused r => exact id

theorem writeLoaded (h : UserUnderway s t) (user : Bool) (l : List (Reg × Word)) (k : Nat) :
    UserUnderway s (writeLoaded user l k t) := by
  induction l generalizing t k with
  | nil => exact h
  | cons x l ih =>
    refine ih ?_ (k + 1)
    split
    · exact h
    · split
      · exact h.writeUser x.1 x.2
      · exact h.writeReg _ x.1 x.2

end UserUnderway

namespace EndsUser

variable {s t : State}

theorem execStm (h : UserUnderway s s) (c : Cond) (p u sb w : Bool) (rn : Reg) (list : BitVec 16) :
    EndsUser s (execStm c p u sb w rn list s) := by
  refine conditional h ?_
  split
  · exact refused _
  · have target := h.blockBase (sb && s.psr.mode != .user) w rn (blockFinal u list (regOrR15 8 0 rn s))
    dsimp only
    generalize listedRegs list = regs
    split
    · exact raise (h.applyBase target) rfl
    · refine out (h.storeWords _ _ _ target 0 _) (fun aborted t ht => ?_) fun t ht => dataAbort ht
      split
      · exact dataAbort ht
      · exact finish ht.keeps

theorem finishLoad (h : UserUnderway s t) (sb user : Bool) (list : BitVec 16) (words : List Word) :
    EndsUser s (finishLoad sb user list words t) := by
  unfold Machine.finishLoad
  split
  · dsimp only
    split
    · exact returnTo h _
    · exact finishJump h.keeps _
  · split
    · exact next (h.keeps.congr rfl rfl)
    · exact finish h.keeps

theorem execLdm (h : UserUnderway s s) (c : Cond) (p u sb w : Bool) (rn : Reg) (list : BitVec 16) :
    EndsUser s (execLdm c p u sb w rn list s) := by
  refine conditional h ?_
  split
  · exact refused _
  · have based := h.applyBase (h.blockBase (sb && s.psr.mode != .user && !(bit list 15)) w rn
      (blockFinal u list (regOrR15 8 0 rn s)))
    dsimp only
    generalize listedRegs list = regs
    split
    · exact raise based rfl
    · refine out (based.loadWords _ _ _) (fun ws t ht => ?_) fun t ht => dataAbort ht
      have loaded := ht.writeLoaded (sb && s.psr.mode != .user && !(bit list 15))
        (regs.zip (loadedWords ws)) 0
      split
      · exact finishLoad loaded sb _ list _
      · refine dataAbort ?_
        split
        · exact loaded.setPhys (fun n => ⟨rn, h.baseReg_user n _ rn⟩) _
        · exact loaded

/-! ## Coprocessor instructions -/

/-- A handshake ends in the undefined-instruction trap, makes no progress, or commits. -/
theorem handshake (h : UserUnderway s t) (num : Reg) (w : Word) {commit : State → Out}
    (hc : ∀ u, UserUnderway s u → EndsUser s (commit u)) : EndsUser s (handshake num w t commit) := by
  have offered := h.offer num w
  unfold Machine.handshake
  revert offered
  obtain ⟨answer, u⟩ := offer num w t
  intro hu
  cases answer with
  | absent => exact raise hu rfl
  | busy => exact next (hu.keeps.congr rfl rfl)
  | ready => exact hc u hu

theorem execCdo (h : UserUnderway s s) (c : Cond) (opc : BitVec 4) (crn crd cp : Reg) (aux : BitVec 3) (crm : Reg) :
    EndsUser s (execCdo c opc crn crd cp aux crm s) := by
  refine conditional h ?_
  split
  · exact raise h rfl
  · exact handshake h cp _ fun u hu => 
      next ((hu.recordEvent cp (.dataop (encode (.cdo c opc crn crd cp aux crm)))).keeps.congr rfl rfl)

/-- In User mode coprocessor 15 of CPU-020 is out of reach (R271). -/
theorem execMcr (h : UserUnderway s s) (c : Cond) (opc : BitVec 3) (crn rd cp : Reg) (aux : BitVec 3) (crm : Reg) :
    EndsUser s (execMcr c opc crn rd cp aux crm s) := by
  refine conditional h ?_
  dsimp only
  split
  · rw [if_pos h.user]
    exact raise h rfl
  · exact handshake h cp _ fun u hu => finish (hu.recordEvent cp _).keeps

theorem finishMrc (h : UserUnderway s t) (rd : Reg) (v : Word) : EndsUser s (finishMrc rd v t) := by
  unfold Machine.finishMrc
  split
  · exact finish (h.keeps_setFlags _ _ _ _)
  · exact finish (h.writeReg 3 rd v).keeps

theorem execMrc (h : UserUnderway s s) (c : Cond) (opc : BitVec 3) (crn rd cp : Reg) (aux : BitVec 3) (crm : Reg) :
    EndsUser s (execMrc c opc crn rd cp aux crm s) := by
  refine conditional h ?_
  split
  · rw [if_pos h.user]
    exact raise h rfl
  · exact handshake h cp _ fun u hu => finishMrc ((hu.takeSupply cp).recordEvent cp _) rd _

end EndsUser

namespace UserUnderway

variable {s t : State}

theorem loadOne (h : UserUnderway s t) (num : Reg) (w : Word) (trans : Bool) (k : Nat) (a : Addr) :
    leaves (UserUnderway s) (loadOne num w trans k a t) := by
  have read := h.memRead a trans
  unfold Machine.loadOne
  revert read
  cases Machine.memRead a trans t with
  | done v u => exact fun hu => hu.recordEvent num _
  | abort u => exact fun hu => hu.recordEvent num _
  | held u => exact id
  | refused r => exact id

theorem coprocLoad (h : UserUnderway s t) (num : Reg) (w : Word) (trans : Bool) (n k : Nat) (a : Addr) :
    leaves (UserUnderway s) (coprocLoad num w trans n k a t) := by
  induction n generalizing t k a with
  | zero => exact h.loadOne num w trans k a
  | succ n ih =>
    exact leaves_bind (h.loadOne num w trans k a) fun _ u _ hu =>
      leaves_bind (ih hu (k + 1) (a + 4)) fun _ _ _ hv => hv

theorem storeOne (h : UserUnderway s t) (num : Reg) (w : Word) (trans : Bool) (k : Nat) (a : Addr) :
    leaves (UserUnderway s) (storeOne num w trans k a t) := by
  have supplied := h.takeSupply num
  unfold Machine.storeOne
  revert supplied
  obtain ⟨v, u⟩ := Machine.takeSupply num t
  intro hu
  have stored := (hu.recordEvent num (.store w k v)).memWrite a .word v trans
  dsimp only
  revert stored
  cases Machine.memWrite a .word v trans (Machine.recordEvent num (.store w k v) u) <;> exact id

theorem coprocStore (h : UserUnderway s t) (num : Reg) (w : Word) (trans : Bool) (n k : Nat) (a : Addr) :
    leaves (UserUnderway s) (coprocStore num w trans n k a t) := by
  induction n generalizing t k a with
  | zero => exact h.storeOne num w trans k a
  | succ n ih =>
    exact leaves_bind (h.storeOne num w trans k a) fun _ u _ hu =>
      leaves_bind (ih hu (k + 1) (a + 4)) fun _ _ _ hv => hv

theorem extraRead (h : UserUnderway s t) (trans : Bool) (a : Addr) :
    leaves (UserUnderway s) (extraRead trans a t) := by
  have read := h.memRead a trans
  unfold Machine.extraRead
  split
  · revert read
    cases Machine.memRead a trans t with
    | refused r => exact fun _ => h
    | _ => exact id
  · exact h

end UserUnderway

namespace EndsUser

variable {s t : State}

theorem finishCoproc (h : UserUnderway s t) (p w : Bool) (rn : Reg) (modified : Word) (aborted : Bool) :
    EndsUser s (finishCoproc p w rn modified aborted t) := by
  have back := h.writeBackReg p w rn modified
  unfold Machine.finishCoproc
  dsimp only
  split
  · exact dataAbort back
  · exact finishTransfer back p w rn modified

theorem execLdc (h : UserUnderway s s) (c : Cond) (p u n w : Bool) (rn crd cp : Reg) (off : BitVec 8) :
    EndsUser s (execLdc c p u n w rn crd cp off s) := by
  refine conditional h ?_
  split
  · exact raise h rfl
  · refine handshake h cp _ fun t ht => ?_
    split
    · exact raise (ht.writeBackReg p w rn _) rfl
    · refine out ((ht.takeLength cp).coprocLoad cp _ _ _ 0 _) (fun aborted v hv => ?_) fun v hv => dataAbort hv
      exact out (hv.extraRead _ _) (fun _ x hx => finishCoproc hx p w rn _ aborted) fun x hx => dataAbort hx

theorem execStc (h : UserUnderway s s) (c : Cond) (p u n w : Bool) (rn crd cp : Reg) (off : BitVec 8) :
    EndsUser s (execStc c p u n w rn crd cp off s) := by
  refine conditional h ?_
  split
  · exact raise h rfl
  · refine handshake h cp _ fun t ht => ?_
    split
    · exact raise (ht.writeBackReg p w rn _) rfl
    · exact out ((ht.takeLength cp).coprocStore cp _ _ _ 0 _) (fun aborted v hv => finishCoproc hv p w rn _ aborted)
        fun v hv => dataAbort hv

end EndsUser

/-! ## Every instruction -/

/-- Everything an instruction can do in User mode. -/
theorem exec_endsUser {s : State} (hu : s.psr.mode = .user) (i : Instr) : EndsUser s (exec i s) := by
  have h := UserUnderway.refl hu
  cases i <;> dsimp only [exec]
  case and | eor | sub | rsb | add | adc | sbc | rsc | tst | teq | cmp | cmn | orr | mov | bic | mvn =>
    exact EndsUser.dataProcessing h _ _ _ _ _ _ _
  case mul => exact EndsUser.execMul h _ _ _ _ _ _
  case mla => exact EndsUser.execMla h _ _ _ _ _ _
  case mulSpace => exact EndsUser.conditional h (EndsUser.refused _)
  case swp | swpb => exact EndsUser.swap h _ _ _ _ _ _ _
  case ldr | ldrb => exact EndsUser.singleLoad h _ _ _ _ _ _ _ _
  case str | strb => exact EndsUser.singleStore h _ _ _ _ _ _ _ _ _
  case stm => exact EndsUser.execStm h _ _ _ _ _ _ _
  case ldm => exact EndsUser.execLdm h _ _ _ _ _ _ _
  case b => exact EndsUser.conditional h (EndsUser.finishJump h.keeps _)
  case bl => exact EndsUser.execBl h _ _
  case stc => exact EndsUser.execStc h _ _ _ _ _ _ _ _ _
  case ldc => exact EndsUser.execLdc h _ _ _ _ _ _ _ _ _
  case cdo => exact EndsUser.execCdo h _ _ _ _ _ _ _
  case mcr => exact EndsUser.execMcr h _ _ _ _ _ _ _
  case mrc => exact EndsUser.execMrc h _ _ _ _ _ _ _
  case swi => exact EndsUser.execSwi h _ _
  case undA | undB => exact EndsUser.conditional h (EndsUser.raise h rfl)

/-! ## The two statements -/

/-- A compare or test with S = 1 and Rd = R15 goes on with the PSR written (R125). -/
theorem finishPsr_next (v : Word) (s : State) :
    ∃ t, finishPsr v s = .next t ∧ t.pc = s.pc + 1 ∧ t.psr = writePsr v s.psr := by
  refine ⟨_, rfl, ?_, ?_⟩ <;> split <;> rfl

theorem exec_teqp {c : Cond} {s : State} (h : condPassed c s.psr = true) (rn : Reg) (op2 : Op2) :
    exec (.teq c true rn 15#4 op2) s =
      finishPsr (regOrPc (aheadOf op2) 0 rn s ^^^ (evalOp2 op2 s).value) s := by
  simp [exec, execTeq, dataProcessing, conditional_pass h, logicalOut]

/-- Settles O58: the two ends of a User-mode instruction, and the end of TEQ with Rd = R15. -/
theorem userModePsr : Obligations.UserModePsr := by
  refine ⟨fun i s t hu ht => ?_, fun c rn op2 s hc => ?_⟩
  · obtain keeps | ⟨e, x, -, rfl, hx⟩ := exec_endsUser hu i t ht
    · exact .inl ⟨keeps.i, keeps.f, keeps.mode.trans hu⟩
    · exact .inr ⟨e, x, rfl, hx.psr⟩
  · intro r
    rw [exec_teqp hc]
    exact finishPsr_next r s

/-- Entering Supervisor mode writes R14_svc and no other banked register (R451). -/
theorem enter_svc_banks {e : Exc} (he : e.mode = .svc) (s : State) :
    (enter e s).regs.fiq = s.regs.fiq ∧ (enter e s).regs.irq = s.regs.irq ∧
      getPhys (enter e s).regs (.svc 0) = getPhys s.regs (.svc 0) := by
  have link : (enter e s).regs = setPhys s.regs (phys .svc 14#4) (r15Val e.ahead s) := by
    rw [enter, enterWith_regs, he]
  exact ⟨link ▸ rfl, link ▸ rfl, enter_other e s (by rw [he]; decide)⟩

/-- Settles O59: a User-mode instruction ends with the banks of the other modes kept, or enters Supervisor mode. -/
theorem userModeBanks : Obligations.UserModeBanks := by
  intro i s t hu hz ht
  obtain keeps | ⟨e, x, he, rfl, hx⟩ := exec_endsUser hu i t ht
  · obtain ⟨hf, hi, hs⟩ := keeps.banks hz
    exact ⟨hf, hi, by simp only [getPhys, hs], fun _ => hs, .inl (keeps.mode.trans hu)⟩
  · obtain ⟨hf, hi, hs⟩ := hx.banks hz
    obtain ⟨ef, ei, es⟩ := enter_svc_banks he x
    have svc : (enter e x).psr.mode = .svc := he
    refine ⟨ef.trans hf, ei.trans hi, es.trans (by simp only [getPhys, hs]), fun user => ?_, .inr svc⟩
    rw [svc] at user
    cases user

end Sys2Proof.Machine
end

section
/-! PROOFS. What the pipeline holds (20_memory.md R63, 10_state.md R28, R36): nothing but the overlap of a store changes a
prefetched word between the fetches, a fill adds words behind those there, and an instruction that writes the PC ends with
none. -/

namespace Sys2Proof.Machine

/-! ## What other agents do leaves the pipeline alone -/

@[simp] theorem latchEvent_pipe (k : Fin 5) (s : State) : (latchEvent k s).pipe = s.pipe := by
  unfold latchEvent; dsimp only; repeat' split
  all_goals rfl

@[simp] theorem sampleEdges_pipe (s : State) : (sampleEdges s).pipe = s.pipe := by
  unfold sampleEdges; dsimp only; repeat' split
  all_goals simp

@[simp] theorem received_pipe (b : Byte) (s : State) : (received b s).pipe = s.pipe := by
  cases h : s.ioc.rxDoubtful <;> simp [received, h]

@[simp] theorem clockRx_pipe (s : State) : (clockRx s).pipe = s.pipe := by
  unfold clockRx; dsimp only; repeat' split
  all_goals simp

@[simp] theorem reloadEvent_pipe (n : Fin 4) (s : State) : (reloadEvent n s).pipe = s.pipe := by
  unfold reloadEvent; repeat' split
  all_goals simp

@[simp] theorem underflow_pipe (n : Fin 4) (s : State) : (underflow n s).pipe = s.pipe := by
  unfold underflow; dsimp only; repeat' split
  all_goals simp

@[simp] theorem tickTimer_pipe (n : Fin 4) (s : State) : (tickTimer n s).pipe = s.pipe := by
  unfold tickTimer; dsimp only; repeat' split
  all_goals simp

@[simp] theorem ticks_pipe (n : Nat) (s : State) : (ticks n s).pipe = s.pipe := by
  induction n generalizing s with
  | zero => rfl
  | succ n ih => simp [ticks, ih, tick]

@[simp] theorem kartFrame_pipe (b : Byte) (s : State) : (kartFrame b s).pipe = s.pipe := by
  unfold kartFrame; split <;> rfl

@[simp] theorem setFlbk_pipe (b : Bool) (s : State) : (setFlbk b s).pipe = s.pipe := rfl

@[simp] theorem startRaster_pipe (s : State) : (startRaster s).pipe = s.pipe := by
  unfold startRaster; dsimp only; repeat' split
  all_goals simp

@[simp] theorem sinkPulse_pipe (s : State) : (sinkPulse s).pipe = s.pipe := by
  unfold sinkPulse; split <;> rfl

@[simp] theorem soundSample_pipe (s : State) : (soundSample s).pipe = s.pipe := by
  unfold soundSample; dsimp only; repeat' split
  all_goals rfl

@[simp] theorem physWord_pipe (pa : Nat) (s : State) : (physWord pa s).2.pipe = s.pipe := by
  unfold physWord; split <;> rfl

@[simp] theorem physBlock_pipe (p : BitVec 15) (s : State) : (physBlock p s).2.pipe = s.pipe := by
  simp [physBlock]

@[simp] theorem videoDma_pipe (s : State) : (videoDma s).pipe = s.pipe := by
  unfold videoDma; split <;> simp

@[simp] theorem cursorDma_pipe (s : State) : (cursorDma s).pipe = s.pipe := by
  unfold cursorDma; split <;> simp

@[simp] theorem soundDma_pipe (s : State) : (soundDma s).pipe = s.pipe := by
  unfold soundDma; split <;> simp

@[simp] theorem refreshTick_pipe (s : State) : (refreshTick s).pipe = s.pipe := by
  unfold refreshTick; split <;> rfl

@[simp] theorem onVidc_pipe (f : Vidc → Vidc) (s : State) : (onVidc f s).pipe = s.pipe := by
  unfold onVidc; split <;> rfl

@[simp] theorem applyEvent_pipe (e : EnvEvent) (s : State) : (applyEvent e s).pipe = s.pipe := by
  cases e <;> dsimp only [applyEvent]
  case pin => rfl
  case ticks | kartFrame | raster | soundSample | sink | flbkLevel => split <;> simp
  all_goals simp

@[simp] theorem chooseBurst_pipe (before s : State) : (chooseBurst before s).pipe = s.pipe := by
  unfold chooseBurst; split <;> rfl

@[simp] theorem followCinit_pipe (s : State) : (followCinit s).pipe = s.pipe := by
  unfold followCinit; split <;> rfl

@[simp] theorem applyEvents_pipe (es : List EnvEvent) (s : State) : (applyEvents es s).pipe = s.pipe := by
  induction es generalizing s with
  | nil => simp [applyEvents]
  | cons e es ih => simp [applyEvents, ih]

@[simp] theorem takeBatch_pipe (s : State) : (takeBatch s).pipe = s.pipe := by
  unfold takeBatch; split <;> simp

/-! ## Accesses leave the pipeline alone -/

/-- The pipeline holds `p`. -/
def Prefetched (p : List Slot) (s : State) : Prop := s.pipe = p

section
variable {p : List Slot} {s : State}

theorem startAccess_prefetched (h : Prefetched p s) : leaves (Prefetched p) (startAccess s) := by
  unfold startAccess; split
  · exact (takeBatch_pipe s).trans h
  · exact h
  · exact (takeBatch_pipe _).trans h

theorem ramTarget_prefetched (h : Prefetched p s) (pa : Nat) : leaves (Prefetched p) (ramTarget pa s) := by
  unfold ramTarget; split
  · exact h
  · trivial

theorem logicalTarget_prefetched (h : Prefetched p s) (w : Bool) (a : Addr) (tr : Bool) :
    leaves (Prefetched p) (logicalTarget w a tr s) := by
  have drawn : Prefetched p (drawWord s).2 := h
  unfold logicalTarget; dsimp only; repeat' split
  all_goals first
    | exact h
    | exact ramTarget_prefetched h _
    | exact ramTarget_prefetched drawn _

theorem busTarget_prefetched (h : Prefetched p s) (w : Bool) (a : Addr) (tr : Bool) :
    leaves (Prefetched p) (busTarget w a tr s) := by
  have booted : Prefetched p (bootStep a s) := h
  unfold busTarget memcTarget; dsimp only; repeat' split
  all_goals first
    | exact h
    | exact logicalTarget_prefetched booted _ _ _
    | exact ramTarget_prefetched booted _

@[simp] theorem readIocRegister_pipe (r : BitVec 5) (s : State) : (readIocRegister r s).2.pipe = s.pipe := by
  unfold readIocRegister readTimer readIocControl readSerial readNothing; dsimp only; repeat' split
  all_goals rfl

@[simp] theorem deviceRead_pipe (b : BitVec 3) (ty : BitVec 2) (a : Addr) (s : State) :
    (deviceRead b ty a s).2.pipe = s.pipe := by
  unfold deviceRead; dsimp only; split <;> rfl

theorem ioRead_prefetched (h : Prefetched p s) (a : Addr) : leaves (Prefetched p) (ioRead a s) := by
  unfold ioRead; dsimp only; repeat' split
  · exact h
  · exact (readIocRegister_pipe _ s).trans h
  · exact (deviceRead_pipe _ _ a s).trans h

theorem extRead_prefetched (h : Prefetched p s) (a : Addr) (tr : Bool) : leaves (Prefetched p) (extRead a tr s) := by
  unfold extRead
  refine leaves_bind (startAccess_prefetched h) fun _ u _ hu => ?_
  refine leaves_bind (busTarget_prefetched hu _ a tr) fun x t _ ht => ?_
  cases x with
  | io => exact leaves_bind (ioRead_prefetched ht a) fun _ v _ hv => (sampleEdges_pipe v).trans hv
  | memory | bootRam | vidc | register | translator => exact ht

@[simp] theorem insertLine_pipe (l : CacheLine) (s : State) : (insertLine l s).pipe = s.pipe := by
  unfold insertLine; dsimp only; split <;> rfl

/-- A read of a line fetch behind its first: an abort leaves the word free (R283). -/
def laterRead (a : Addr) (tr : Bool) (s : State) : Bus Word :=
  match extRead a tr s with
  | .done w s => .done w s
  | .abort s => .done (drawWord s).1 (drawWord s).2
  | .held s => .held s
  | .refused r => .refused r

theorem laterRead_prefetched (h : Prefetched p s) (a : Addr) (tr : Bool) : leaves (Prefetched p) (laterRead a tr s) := by
  have read := extRead_prefetched h a tr
  unfold laterRead
  revert read
  cases extRead a tr s <;> exact id

theorem lineFetch_eq (a : Addr) (tr : Bool) (s : State) :
    lineFetch a tr s =
      (extRead (field a 4 22 ++ 0#4) tr s).bind fun w0 s =>
      (laterRead (field a 4 22 ++ 0#4 + 4) tr s).bind fun w1 s =>
      (laterRead (field a 4 22 ++ 0#4 + 8) tr s).bind fun w2 s =>
      (laterRead (field a 4 22 ++ 0#4 + 12) tr s).bind fun w3 s =>
        let l : CacheLine := { tag := tagOf a, space := spaceOf tr s, w0 := w0, w1 := w1, w2 := w2, w3 := w3 }
        .done (lineWord l a) (insertLine l s) := rfl

theorem lineFetch_prefetched (h : Prefetched p s) (a : Addr) (tr : Bool) :
    leaves (Prefetched p) (lineFetch a tr s) := by
  rw [lineFetch_eq]
  refine leaves_bind (extRead_prefetched h _ tr) fun _ _ _ h0 => ?_
  refine leaves_bind (laterRead_prefetched h0 _ tr) fun _ _ _ h1 => ?_
  refine leaves_bind (laterRead_prefetched h1 _ tr) fun _ _ _ h2 => ?_
  refine leaves_bind (laterRead_prefetched h2 _ tr) fun _ t _ h3 => ?_
  exact (insertLine_pipe _ t).trans h3

theorem memRead_prefetched (h : Prefetched p s) (a : Addr) (tr : Bool) : leaves (Prefetched p) (memRead a tr s) := by
  unfold memRead; repeat' split
  · exact h
  · exact lineFetch_prefetched h a tr
  · exact extRead_prefetched h a tr
  · exact extRead_prefetched h a tr

theorem ioWrite_prefetched (h : Prefetched p s) (a : Addr) (d : Word) : leaves (Prefetched p) (ioWrite a d s) := by
  unfold ioWrite writeIocRegister writeTimer; dsimp only; repeat' split
  all_goals exact h

@[simp] theorem setPageSize_pipe (c : BitVec 2) (s : State) : (setPageSize c s).pipe = s.pipe := by
  unfold setPageSize; split <;> rfl

theorem writeMemcRegister_prefetched (h : Prefetched p s) (a : Addr) :
    leaves (Prefetched p) (writeMemcRegister a s) := by
  have sized : Prefetched p (setPageSize (field a 2 2) s) := (setPageSize_pipe _ s).trans h
  unfold writeMemcRegister writeMemcControl; dsimp only; repeat' split
  all_goals first
    | exact h
    | exact sized

theorem writeTranslator_prefetched (h : Prefetched p s) (a : Addr) : leaves (Prefetched p) (writeTranslator a s) := by
  unfold writeTranslator; dsimp only; split
  · trivial
  · exact h

theorem writeVidc_prefetched (h : Prefetched p s) (d : Word) : leaves (Prefetched p) (writeVidc d s) := by
  unfold writeVidc; dsimp only; repeat' split
  all_goals first
    | exact h
    | trivial

theorem extWrite_prefetched (h : Prefetched p s) (a : Addr) (z : Size) (d : Word) (tr : Bool) :
    leaves (Prefetched p) (extWrite a z d tr s) := by
  unfold extWrite
  refine leaves_bind (startAccess_prefetched h) fun _ u _ hu => ?_
  refine leaves_bind (busTarget_prefetched hu _ a tr) fun x t _ ht => ?_
  have sampled (v : State) (hv : Prefetched p v) : Prefetched p (sampleEdges v) := (sampleEdges_pipe v).trans hv
  cases x <;> dsimp only
  case memory => cases z <;> exact ht
  case bootRam => exact ht
  case io => exact leaves_bind (ioWrite_prefetched ht a d) fun _ v _ => sampled v
  case vidc =>
    split
    · exact leaves_bind (writeVidc_prefetched ht d) fun _ v _ => sampled v
    · exact ht
  case register => exact leaves_bind (writeMemcRegister_prefetched ht a) fun _ v _ => sampled v
  case translator => exact leaves_bind (writeTranslator_prefetched ht a) fun _ _ _ hv => hv

@[simp] theorem cacheWrite_pipe (a : Addr) (z : Size) (d : Word) (tr ab : Bool) (s : State) :
    (cacheWrite a z d tr ab s).pipe = s.pipe := by
  unfold cacheWrite; repeat' split
  all_goals rfl

end

/-! ## A fill (R36) -/

/-- A fetch leaves the words already there. -/
theorem fetchSlot_prefetched {p : List Slot} {s : State} (h : Prefetched p s) (pc : PcWord) :
    leaves (Prefetched p) (fetchSlot pc s) := by
  have read := memRead_prefetched h (fetchAddress pc) (modeTranslate s)
  unfold fetchSlot
  revert read
  dsimp only
  cases memRead (fetchAddress pc) (modeTranslate s) s with
  | done w t => exact id
  | abort t => exact id
  | held t => exact id
  | refused r => exact fun _ => h

/-- Fetching `n` more words puts `n` slots behind those there. -/
theorem fetchMore_appends {n : Nat} {s t : State} (h : fetchMore n s = .done () t) :
    ∃ l, l.length = n ∧ t.pipe = s.pipe ++ l := by
  induction n generalizing s with
  | zero =>
    cases h
    exact ⟨[], rfl, (List.append_nil _).symm⟩
  | succ n ih =>
    have kept := fetchSlot_prefetched (p := s.pipe) (s := s) rfl (s.pc + BitVec.ofNat 24 s.pipe.length)
    unfold fetchMore at h
    revert kept h
    cases fetchSlot (s.pc + BitVec.ofNat 24 s.pipe.length) s with
    | done sl u =>
      intro kept h
      obtain ⟨l, hl, ht⟩ := ih h
      have hu : u.pipe = s.pipe := kept
      exact ⟨sl :: l, by simp [hl], by simp [ht, hu]⟩
    | abort u | held u | refused r => exact nofun

theorem fillPipe_prefix {s t : State} (hs : s.pipe.length ≤ 3) (h : fillPipe s = .done () t) :
    t.pipe.length = 3 ∧ t.pipe.take s.pipe.length = s.pipe := by
  obtain ⟨l, hl, ht⟩ := fetchMore_appends h
  exact ⟨by simp [ht, hl, hs], by simp [ht]⟩

/-! ## A store (R63) -/

/-- A slot that the overlap reaches has the old or the stored word (D12). -/
theorem overlapSlot_cases (fresh : Bool) (a : Addr) (z : Size) (d : Word) (sl : Slot) :
    overlapSlot fresh a z d sl = sl ∨
      ∃ w, sl = ⟨.word w, sl.priv⟩ ∧ overlapSlot fresh a z d sl = ⟨.word (mergeWord a z d w), sl.priv⟩ := by
  obtain ⟨content, priv⟩ := sl
  cases content with
  | word w => cases fresh <;> simp [overlapSlot]
  | aborted | unspecified r => exact .inl rfl

/-- What a store at `a` made of the pipeline of `s`: every slot is as it was, but one behind the current instruction may have
taken the stored word. -/
def Overlapped (a : Addr) (z : Size) (d : Word) (s t : State) : Prop :=
  t.pipe.length = s.pipe.length ∧
  ∀ k : Nat, t.pipe[k]? = s.pipe[k]? ∨
    (1 ≤ k ∧ field a 2 24 = s.pc + BitVec.ofNat 24 k ∧ ∃ w priv, s.pipe[k]? = some ⟨.word w, priv⟩ ∧
      t.pipe[k]? = some ⟨.word (mergeWord a z d w), priv⟩)

theorem Overlapped.of_eq {a : Addr} {z : Size} {d : Word} {s t : State} (h : t.pipe = s.pipe) : Overlapped a z d s t :=
  ⟨by rw [h], fun k => .inl (by rw [h])⟩

theorem overlapPrefetch_overlapped (a : Addr) (z : Size) (d : Word) (s : State) :
    Overlapped a z d s (overlapPrefetch a z d s) := by
  unfold overlapPrefetch
  split
  · exact .of_eq rfl
  · next here rest hp =>
    refine ⟨by simp [hp], fun k => ?_⟩
    cases k with
    | zero => simp [hp]
    | succ k =>
      simp only [hp, List.getElem?_cons_succ, List.getElem?_mapIdx]
      cases hk : rest[k]? with
      | none => exact .inl rfl
      | some sl =>
        dsimp only [Option.map_some]
        split
        · next here =>
          obtain old | ⟨w, hw, new⟩ := overlapSlot_cases (Config.freeBit s.free (1010 + k)) a z d sl
          · exact .inl (congrArg some old)
          · exact .inr ⟨Nat.succ_pos k, here, w, sl.priv, congrArg some hw, congrArg some new⟩
        · exact .inl rfl

/-- A store that is not aborted: the write itself leaves the pipeline and the PC alone, so only the overlap counts. -/
theorem memWrite_overlapped {a : Addr} {z : Size} {d : Word} {tr : Bool} {s t : State}
    (h : memWrite a z d tr s = .done () t) : Overlapped a z d s t := by
  have kept := extWrite_prefetched (p := s.pipe) (s := s) rfl a z d tr
  have core := extWrite_core a z d tr s
  unfold memWrite at h
  revert kept core h
  cases extWrite a z d tr s with
  | done stored u =>
    rintro ⟨⟩ kept core
    have pipe : (cacheWrite a z d tr false u).pipe = s.pipe := (cacheWrite_pipe a z d tr false u).trans kept
    have pc : (cacheWrite a z d tr false u).pc = s.pc := (core.trans (cacheWrite_core a z d tr false u)).pc
    split
    · have met := overlapPrefetch_overlapped a z d (cacheWrite a z d tr false u)
      rwa [Overlapped, pipe, pc] at met
    · exact .of_eq pipe
  | abort u | held u | refused r => exact nofun

/-! ## Writing the PC (R28, R36) -/

/-- Whatever next state `o` answers, nothing is prefetched in it unless it holds the clocks. -/
def EndsEmpty (o : Out) : Prop := ∀ t, o = .next t → t.held = none → t.pipe = []

namespace EndsEmpty

theorem refused (r : Refusal) : EndsEmpty (.refused r) := fun _ h => nomatch h

theorem finishJump (target : PcWord) (s : State) : EndsEmpty (finishJump target s) := by
  rintro t ⟨⟩ -
  rfl

theorem returnTo (v : Word) (s : State) : EndsEmpty (returnTo v s) := by
  rintro t ⟨⟩ -
  rfl

theorem raise (e : Exc) (s : State) : EndsEmpty (raise e s) := by
  rintro t ⟨⟩ -
  exact enter_pipe e s

theorem conditional {c : Cond} {s : State} {run : State → Out} (hc : condPassed c s.psr = true)
    (h : EndsEmpty (run s)) : EndsEmpty (conditional c s run) := by rwa [conditional_pass hc]

/-- The end of an instruction after an access that answers `held` only with the clocks held. -/
theorem out {α : Type} {b : Bus α} {ok : α → State → Out} {bad : State → Out} (hb : heldOnly b)
    (hok : ∀ v u, b = .done v u → EndsEmpty (ok v u)) (hbad : ∀ u, b = .abort u → EndsEmpty (bad u)) :
    EndsEmpty (b.out ok bad) := by
  intro t ht free
  obtain ⟨v, u, hu, ht⟩ | ⟨u, hu, ht⟩ | held := Bus.out_cases ht
  · exact hok v u hu t ht free
  · exact hbad u hu t ht free
  · exact absurd free (hb t held)

theorem finishTransfer {p w : Bool} {rn : Reg} (h : (writesBack p w && rn == 15#4) = true) (modified : Word) (s : State) :
    EndsEmpty (finishTransfer p w rn modified s) := by
  rw [Machine.finishTransfer, if_pos h]
  exact finishJump _ s

section
variable {c : Cond} {s : State}

theorem dataProcessing (hc : condPassed c s.psr = true) {rd : Reg} (hd : (rd == 15#4) = true) (alu : Alu) (sb : Bool)
    (rn : Reg) (op2 : Op2) : EndsEmpty (dataProcessing true alu c sb rn rd op2 s) := by
  refine conditional hc ?_
  dsimp only
  rw [if_pos (eq_of_beq hd), if_pos rfl]
  split
  · exact returnTo _ s
  · exact finishJump _ s

theorem execSwi (hc : condPassed c s.psr = true) (comment : BitVec 24) : EndsEmpty (execSwi c comment s) := by
  refine conditional hc ?_
  split <;> exact raise _ s

theorem singleLoad (hc : condPassed c s.psr = true) (hcut : s.cut = none) {p w : Bool} {rn rd : Reg}
    (hd : (rd == 15#4 || (writesBack p w && rn == 15#4)) = true) (extract : Word → Word → Word) (u : Bool)
    (off : Offset) : EndsEmpty (singleLoad extract c p u w rn rd off s) := by
  refine conditional hc ?_
  dsimp only
  split
  · exact raise _ s
  · refine out (memRead_heldOnly _ _ hcut) (fun word t _ => ?_) fun t _ => raise _ t
    split
    · exact finishJump _ _
    · next other =>
      have base : (writesBack p w && rn == 15#4) = true := by simpa [other] using hd
      exact finishTransfer base _ _

theorem singleStore (hc : condPassed c s.psr = true) (hcut : s.cut = none) {p w : Bool} {rn : Reg}
    (hd : (writesBack p w && rn == 15#4) = true) (size : Size) (data : Word → Word) (u : Bool) (rd : Reg)
    (off : Offset) : EndsEmpty (singleStore size data c p u w rn rd off s) := by
  refine conditional hc ?_
  dsimp only
  split
  · exact raise _ s
  · exact out (memWrite_heldOnly _ _ _ _ hcut) (fun _ t _ => finishTransfer hd _ _) fun t _ => raise _ t

theorem finishSwap {rd : Reg} (hd : (rd == 15#4) = true) (old : Word) (s : State) : EndsEmpty (finishSwap rd old s) := by
  rw [Machine.finishSwap, if_pos (eq_of_beq hd)]
  exact finishJump _ s

/-- The write of a swap is issued after its read, aborted or not (R215): the read has cut nothing. -/
theorem swap (hc : condPassed c s.psr = true) (hcut : s.cut = none) {rd : Reg} (hd : (rd == 15#4) = true)
    (size : Size) (extract : Word → Word → Word) (data : Word → Word) (rn rm : Reg) :
    EndsEmpty (swap size extract data c rn rd rm s) := by
  refine conditional hc ?_
  dsimp only
  split
  · exact raise _ s
  · split
    · exact raise _ s
    · have same := extRead_same (swapAddress size (regOrR15 8 0 rn s)) (modeTranslate s) s
      refine out (extRead_heldOnly _ _ hcut) (fun word t ht => ?_) fun t ht => ?_
      · rw [ht] at same
        exact out (memWrite_heldOnly _ _ _ _ (same.1.cut hcut)) (fun _ v _ => finishSwap hd _ v) fun v _ => raise _ v
      · rw [ht] at same
        exact out (memWrite_heldOnly _ _ _ _ (same.1.cut hcut)) (fun _ v _ => raise _ v) fun v _ => raise _ v

theorem finishLoad {list : BitVec 16} (hl : bit list 15 = true) (sb user : Bool) (words : List Word) (s : State) :
    EndsEmpty (finishLoad sb user list words s) := by
  rw [Machine.finishLoad, if_pos hl]
  dsimp only
  split
  · exact returnTo _ s
  · exact finishJump _ s

end
end EndsEmpty

/-- The reads of an LDM that no reset has cut answer `held` only with the clocks held. -/
theorem loadWords_heldOnly (trans : Bool) (rs : List Reg) (a : Addr) {s : State} (h : s.cut = none) :
    heldOnly (loadWords trans rs a s) := by
  induction rs generalizing a s with
  | nil => exact heldOnly_done _ s
  | cons r rs ih =>
    have same := memRead_same a trans s
    have held := memRead_heldOnly a trans h
    unfold loadWords
    revert same held
    cases memRead a trans s with
    | done w u => exact fun same _ => heldOnly_bind (ih (a + 4) (same.1.cut h)) fun _ _ _ => heldOnly_done _ _
    | abort u => exact fun same _ => heldOnly_bind (ih (a + 4) (same.1.cut h)) fun _ _ _ => heldOnly_done _ _
    | held u =>
      rintro - held t ⟨⟩
      exact held u rfl
    | refused r => exact fun _ _ => heldOnly_refused r

theorem applyBase_cut (wb : Option (PhysReg × Word)) (s : State) : (applyBase wb s).cut = s.cut := by
  cases wb <;> rfl

theorem EndsEmpty.execLdm {c : Cond} {s : State} (hc : condPassed c s.psr = true) (hcut : s.cut = none)
    {list : BitVec 16} (hl : bit list 15 = true) (p u sb w : Bool) (rn : Reg) :
    EndsEmpty (execLdm c p u sb w rn list s) := by
  refine conditional hc ?_
  split
  · exact refused _
  · dsimp only
    split
    · exact raise _ _
    · refine out (loadWords_heldOnly _ _ _ ((applyBase_cut _ s).trans hcut)) (fun ws t _ => ?_) fun t _ => raise _ t
      split
      · exact finishLoad hl _ _ _ _
      · exact raise _ _

/-- Every instruction that writes the PC ends with nothing prefetched, or with the clocks held. -/
theorem exec_endsEmpty {i : Instr} {s : State} (hi : writesPc i = true) (hc : condPassed i.cond s.psr = true)
    (hcut : s.cut = none) : EndsEmpty (exec i s) := by
  cases i <;> dsimp only [exec, Instr.cond, writesPc] at *
  case and | eor | sub | rsb | add | adc | sbc | rsc | orr | mov | bic | mvn =>
    exact EndsEmpty.dataProcessing hc hi _ _ _ _
  case swp | swpb => exact EndsEmpty.swap hc hcut hi _ _ _ _ _
  case ldr | ldrb => exact EndsEmpty.singleLoad hc hcut hi _ _ _
  case str | strb => exact EndsEmpty.singleStore hc hcut hi _ _ _ _ _
  case ldm => exact EndsEmpty.execLdm hc hcut hi _ _ _ _ _
  case b | bl => exact EndsEmpty.conditional hc (EndsEmpty.finishJump _ _)
  case swi => exact EndsEmpty.execSwi hc _
  case undA | undB => exact EndsEmpty.conditional hc (EndsEmpty.raise _ s)
  all_goals cases hi

theorem exec_b_passed {c : Cond} {s : State} (hc : condPassed c s.psr = true) (off : BitVec 24) :
    exec (.b c off) s = finishJump (branchTarget off s) s := by
  simp only [exec, execB, conditional_pass hc]

theorem exec_bl_passed {c : Cond} {s : State} (hc : condPassed c s.psr = true) (off : BitVec 24) :
    exec (.bl c off) s =
      finishJump (branchTarget off s) { s with regs := setPhys s.regs (phys s.psr.mode 14#4) (r15Val 4 s) } := by
  simp only [exec, execBl, conditional_pass hc]

/-- Settles O60: a fill appends, a store overlaps slot by slot, and every end that writes the PC empties the pipeline. -/
theorem prefetchOverlap : Obligations.PrefetchOverlap := by
  refine ⟨?fill, ?store, ?branch, ?writesPc, ?entry⟩
  case fill => exact fun s t => fillPipe_prefix
  case store => exact fun a z d tr s t => memWrite_overlapped
  case branch =>
    intro c off s hc
    exact ⟨⟨_, exec_b_passed hc off, rfl⟩, ⟨_, exec_bl_passed hc off, rfl⟩⟩
  case writesPc => exact fun i s t hi hc hcut => exec_endsEmpty hi hc hcut t
  case entry => exact fun e link s => enterWith_pipe e link s

end Sys2Proof.Machine
end

section
/-! PROOFS. The words of the encoding (30_encoding.md): a word and its fields, and the word of each format (R71) as the
equations of its fields. -/

namespace Sys2Proof

/-! ## Fields of a word -/

theorem field_field {n : Nat} (w : BitVec n) {s l s' l' : Nat} (h : s' + l' ≤ l) :
    field (field w s l) s' l' = field w (s + s') l' := by
  ext i hi
  simp [show s' + i < l by omega, Nat.add_assoc]

theorem bit_field {n : Nat} (w : BitVec n) {s l k : Nat} (h : k < l) : bit (field w s l) k = bit w (s + k) := by
  simp [h]

theorem field_one_eq {n : Nat} (w : BitVec n) (k : Nat) (b : Bool) : field w k 1 = bit1 b ↔ bit w k = b := by
  have key : field w k 1 = bit1 (bit w k) := by
    ext i hi
    simp [show i = 0 by omega]
  rw [key]
  cases bit w k <;> cases b <;> decide

/-- A word is the append of two fields exactly when they are what its upper and its lower part hold. -/
theorem append_eq_iff {a b : Nat} (x : BitVec a) (y : BitVec b) (w : BitVec (no_index (a + b))) :
    HAppend.hAppend (γ := BitVec (no_index _)) x y = w ↔ x = field w b a ∧ y = field w 0 b := by
  constructor
  · rintro rfl
    exact ⟨BitVec.extractLsb'_append_eq_left.symm, BitVec.extractLsb'_append_eq_right.symm⟩
  · rintro ⟨rfl, rfl⟩
    exact BitVec.extractLsb'_append_extractLsb'

/-- A field is an append exactly when its upper and its lower part are the two fields appended. -/
theorem field_eq_append_iff {n : Nat} (w : BitVec n) (s : Nat) {a b : Nat} (x : BitVec a) (y : BitVec b) :
    field w s (a + b) = x ++ y ↔ field w (s + b) a = x ∧ field w s b = y := by
  rw [eq_comm, append_eq_iff, field_field w (Nat.le_of_eq (Nat.add_comm b a)), field_field w (by simp), Nat.add_zero,
    eq_comm, @eq_comm _ y]

/-- The same for an upper part and one bit below it. -/
theorem field_eq_append_bit_iff {n : Nat} (w : BitVec n) (s : Nat) {a : Nat} (x : BitVec a) (b : Bool) :
    field w s (a + 1) = x ++ bit1 b ↔ field w (s + 1) a = x ∧ bit w s = b := by
  rw [field_eq_append_iff, field_one_eq]

theorem eq_condCode_iff {k : BitVec 4} {c : Cond} : k = condCode c ↔ condOfCode k = c :=
  ⟨fun h => h ▸ condOfCode_condCode c, fun h => h ▸ (condCode_condOfCode k).symm⟩

theorem eq_shiftCode_iff {k : BitVec 2} {t : ShiftType} : k = shiftCode t ↔ shiftOfCode k = t :=
  ⟨fun h => h ▸ shiftOfCode_shiftCode t, fun h => h ▸ (shiftCode_shiftOfCode k).symm⟩

/-! ## The formats of R71, field by field -/

section
variable {x : Word} {c : Cond}

theorem encodeDataProcessing_eq_iff {op : BitVec 4} {sb : Bool} {rn rd : Reg} {op2 : Op2} :
    encodeDataProcessing op c sb rn rd op2 = x ↔
      condOfCode (field x 28 4) = c ∧ field x 26 2 = 0#2 ∧ field x 25 1 = (encodeOp2 op2).1 ∧ field x 21 4 = op ∧
        bit x 20 = sb ∧ field x 16 4 = rn ∧ field x 12 4 = rd ∧ field x 0 12 = (encodeOp2 op2).2 := by
  simp (disch := decide) only [encodeDataProcessing, append_eq_iff, field_field, Nat.reduceAdd, and_assoc]
  simp only [eq_comm (b := field x _ _), field_one_eq, eq_condCode_iff]

theorem encodeSingleTransfer_eq_iff {byte load p u w : Bool} {rn rd : Reg} {off : Offset} :
    encodeSingleTransfer byte load c p u w rn rd off = x ↔
      condOfCode (field x 28 4) = c ∧ field x 26 2 = 1#2 ∧ field x 25 1 = (encodeOffset off).1 ∧ bit x 24 = p ∧
        bit x 23 = u ∧ bit x 22 = byte ∧ bit x 21 = w ∧ bit x 20 = load ∧ field x 16 4 = rn ∧ field x 12 4 = rd ∧
        field x 0 12 = (encodeOffset off).2 := by
  simp (disch := decide) only [encodeSingleTransfer, append_eq_iff, field_field, Nat.reduceAdd, and_assoc]
  simp only [eq_comm (b := field x _ _), field_one_eq, eq_condCode_iff]

theorem encodeBlockTransfer_eq_iff {load p u sb w : Bool} {rn : Reg} {list : BitVec 16} :
    encodeBlockTransfer load c p u sb w rn list = x ↔
      condOfCode (field x 28 4) = c ∧ field x 25 3 = 4#3 ∧ bit x 24 = p ∧ bit x 23 = u ∧ bit x 22 = sb ∧ bit x 21 = w ∧
        bit x 20 = load ∧ field x 16 4 = rn ∧ field x 0 16 = list := by
  simp (disch := decide) only [encodeBlockTransfer, append_eq_iff, field_field, Nat.reduceAdd, and_assoc]
  simp only [eq_comm (b := field x _ _), field_one_eq, eq_condCode_iff]

theorem encodeCoprocTransfer_eq_iff {load p u n w : Bool} {rn crd cp : Reg} {off : BitVec 8} :
    encodeCoprocTransfer load c p u n w rn crd cp off = x ↔
      condOfCode (field x 28 4) = c ∧ field x 25 3 = 6#3 ∧ bit x 24 = p ∧ bit x 23 = u ∧ bit x 22 = n ∧ bit x 21 = w ∧
        bit x 20 = load ∧ field x 16 4 = rn ∧ field x 12 4 = crd ∧ field x 8 4 = cp ∧ field x 0 8 = off := by
  simp (disch := decide) only [encodeCoprocTransfer, append_eq_iff, field_field, Nat.reduceAdd, and_assoc]
  simp only [eq_comm (b := field x _ _), field_one_eq, eq_condCode_iff]

/-- The word of MRC and MCR: class 111 with bit 24 = 0. -/
theorem encodeRegisterTransfer_eq_iff {load : Bool} {opc : BitVec 3} {crn rd cp : Reg} {aux : BitVec 3} {crm : Reg} :
    encodeRegisterTransfer load c opc crn rd cp aux crm = x ↔
      condOfCode (field x 28 4) = c ∧ field x 25 3 = 7#3 ∧ bit x 24 = false ∧ field x 21 3 = opc ∧ bit x 20 = load ∧
        field x 16 4 = crn ∧ field x 12 4 = rd ∧ field x 8 4 = cp ∧ field x 5 3 = aux ∧ bit x 4 = true ∧
        field x 0 4 = crm := by
  change condCode c ++ (7#3 ++ bit1 false) ++ opc ++ bit1 load ++ crn ++ rd ++ cp ++ aux ++ bit1 true ++ crm = x ↔ _
  simp (disch := decide) only [append_eq_iff, field_field, Nat.reduceAdd, and_assoc]
  simp only [eq_comm (b := field x _ _), field_one_eq, eq_condCode_iff]

theorem encode_cdo_eq_iff {opc : BitVec 4} {crn crd cp : Reg} {aux : BitVec 3} {crm : Reg} :
    encode (.cdo c opc crn crd cp aux crm) = x ↔
      condOfCode (field x 28 4) = c ∧ field x 25 3 = 7#3 ∧ bit x 24 = false ∧ field x 20 4 = opc ∧ field x 16 4 = crn ∧
        field x 12 4 = crd ∧ field x 8 4 = cp ∧ field x 5 3 = aux ∧ bit x 4 = false ∧ field x 0 4 = crm := by
  change condCode c ++ (7#3 ++ bit1 false) ++ opc ++ crn ++ crd ++ cp ++ aux ++ bit1 false ++ crm = x ↔ _
  simp (disch := decide) only [append_eq_iff, field_field, Nat.reduceAdd, and_assoc]
  simp only [eq_comm (b := field x _ _), field_one_eq, eq_condCode_iff]

/-- The word of B and BL (class 101) and of SWI (class 111): bit 24 = `b`, and 24 bits of offset or comment. -/
theorem branchWord_eq_iff {k : BitVec 3} {b : Bool} {off : BitVec 24} :
    condCode c ++ (k ++ bit1 b) ++ off = x ↔
      condOfCode (field x 28 4) = c ∧ field x 25 3 = k ∧ bit x 24 = b ∧ field x 0 24 = off := by
  simp (disch := decide) only [append_eq_iff, field_field, Nat.reduceAdd, and_assoc]
  simp only [eq_comm (b := field x _ _), field_one_eq, eq_condCode_iff]

/-- The word of MUL and MLA (R79), with the constant bits of `encode` split into fields: bit 21 = `acc` is the A bit. -/
theorem multiplyWord_eq_iff {acc sb : Bool} {rd rn rs rm : Reg} :
    condCode c ++ (0#3 ++ bit1 false ++ 0#2 ++ bit1 acc) ++ bit1 sb ++ rd ++ rn ++ rs ++
        (bit1 true ++ 0#2 ++ bit1 true) ++ rm = x ↔
      condOfCode (field x 28 4) = c ∧ field x 25 3 = 0#3 ∧ bit x 24 = false ∧ field x 22 2 = 0#2 ∧ bit x 21 = acc ∧
        bit x 20 = sb ∧ field x 16 4 = rd ∧ field x 12 4 = rn ∧ field x 8 4 = rs ∧ bit x 7 = true ∧ field x 5 2 = 0#2 ∧
        bit x 4 = true ∧ field x 0 4 = rm := by
  simp (disch := decide) only [append_eq_iff, field_field, Nat.reduceAdd, and_assoc]
  simp only [eq_comm (b := field x _ _), field_one_eq, eq_condCode_iff]

/-- The word of SWP and SWPB (R80), with the constant bits of `encode` split into fields: bit 22 = `byte` is the B bit. -/
theorem swapWord_eq_iff {byte : Bool} {rn rd rm : Reg} :
    condCode c ++ (0#3 ++ bit1 true ++ bit1 false ++ bit1 byte ++ 0#2) ++ rn ++ rd ++
        (0#4 ++ bit1 true ++ 0#2 ++ bit1 true) ++ rm = x ↔
      condOfCode (field x 28 4) = c ∧ field x 25 3 = 0#3 ∧ bit x 24 = true ∧ bit x 23 = false ∧ bit x 22 = byte ∧
        field x 20 2 = 0#2 ∧ field x 16 4 = rn ∧ field x 12 4 = rd ∧ field x 8 4 = 0#4 ∧ bit x 7 = true ∧
        field x 5 2 = 0#2 ∧ bit x 4 = true ∧ field x 0 4 = rm := by
  simp (disch := decide) only [append_eq_iff, field_field, Nat.reduceAdd, and_assoc]
  simp only [eq_comm (b := field x _ _), field_one_eq, eq_condCode_iff]

/-- The word of UND-A (R89) and of the unallocated multiply space (R90): bit 24 = `und` tells them apart. -/
theorem spaceWord_eq_iff {und : Bool} {hi : BitVec 16} {mid : BitVec 2} {lo : BitVec 4} :
    condCode c ++ (0#3 ++ bit1 und) ++ hi ++ bit1 true ++ mid ++ bit1 true ++ lo = x ↔
      condOfCode (field x 28 4) = c ∧ field x 25 3 = 0#3 ∧ bit x 24 = und ∧ field x 8 16 = hi ∧ bit x 7 = true ∧
        field x 5 2 = mid ∧ bit x 4 = true ∧ field x 0 4 = lo := by
  simp (disch := decide) only [append_eq_iff, field_field, Nat.reduceAdd, and_assoc]
  simp only [eq_comm (b := field x _ _), field_one_eq, eq_condCode_iff]

theorem encode_undB_eq_iff {hi : BitVec 20} {lo : BitVec 4} :
    encode (.undB c hi lo) = x ↔
      condOfCode (field x 28 4) = c ∧ field x 25 3 = 3#3 ∧ field x 5 20 = hi ∧ bit x 4 = true ∧ field x 0 4 = lo := by
  change condCode c ++ 3#3 ++ hi ++ bit1 true ++ lo = x ↔ _
  simp (disch := decide) only [append_eq_iff, field_field, Nat.reduceAdd, and_assoc]
  simp only [eq_comm (b := field x _ _), field_one_eq, eq_condCode_iff]

end

/-! ## Operands -/

section
variable {x : Word}

/-- Bits 11:0 of a register shifted by an amount in the instruction (R77). -/
theorem shiftedField_eq_iff {amt : BitVec 5} {ty : ShiftType} {rm : Reg} :
    field x 0 12 = amt ++ shiftCode ty ++ bit1 false ++ rm ↔
      field x 7 5 = amt ∧ shiftOfCode (field x 5 2) = ty ∧ bit x 4 = false ∧ field x 0 4 = rm := by
  rw [eq_comm]
  simp (disch := decide) only [append_eq_iff, field_field, Nat.reduceAdd, and_assoc]
  simp only [eq_comm (b := field x _ _), field_one_eq, eq_shiftCode_iff]

/-- Bits 11:0 of a register shifted by a register (R77). -/
theorem registerShiftField_eq_iff {rs : Reg} {ty : ShiftType} {rm : Reg} :
    field x 0 12 = rs ++ bit1 false ++ shiftCode ty ++ bit1 true ++ rm ↔
      field x 8 4 = rs ∧ bit x 7 = false ∧ shiftOfCode (field x 5 2) = ty ∧ bit x 4 = true ∧ field x 0 4 = rm := by
  rw [eq_comm]
  simp (disch := decide) only [append_eq_iff, field_field, Nat.reduceAdd, and_assoc]
  simp only [eq_comm (b := field x _ _), field_one_eq, eq_shiftCode_iff]

/-- Operand 2 is read back from bits 25 and 11:0, and those bits are never in the multiply space (R74, R77, R78). -/
theorem decodeOp2_of_encodeOp2 {op2 : Op2} (h25 : field x 25 1 = (encodeOp2 op2).1)
    (h0 : field x 0 12 = (encodeOp2 op2).2) :
    decodeOp2 x = op2 ∧ (bit x 25 = true ∨ (bit x 7 && bit x 4) = false) := by
  cases op2 with
  | imm rotate imm8 =>
    have b25 : bit x 25 = true := (field_one_eq x 25 true).1 h25
    obtain ⟨rfl, rfl⟩ := (field_eq_append_iff x 0 rotate imm8).1 h0
    exact ⟨if_pos b25, .inl b25⟩
  | shImm amt ty rm =>
    have b25 : bit x 25 = false := (field_one_eq x 25 false).1 h25
    obtain ⟨rfl, rfl, b4, rfl⟩ := shiftedField_eq_iff.1 h0
    exact ⟨by simp only [decodeOp2, b25, b4, Bool.false_eq_true, if_false], .inr (by rw [b4, Bool.and_false])⟩
  | shReg rs ty rm =>
    have b25 : bit x 25 = false := (field_one_eq x 25 false).1 h25
    obtain ⟨rfl, b7, rfl, b4, rfl⟩ := registerShiftField_eq_iff.1 h0
    exact ⟨by simp only [decodeOp2, b25, b4, Bool.false_eq_true, if_false, if_true], .inr (by rw [b7, Bool.false_and])⟩

theorem encodeOp2_decodeOp2 (h : bit x 25 = true ∨ (bit x 7 && bit x 4) = false) :
    field x 25 1 = (encodeOp2 (decodeOp2 x)).1 ∧ field x 0 12 = (encodeOp2 (decodeOp2 x)).2 := by
  unfold decodeOp2
  split
  case isTrue b25 =>
    exact ⟨(field_one_eq x 25 true).2 b25, (field_eq_append_iff x 0 (field x 8 4) (field x 0 8)).2 ⟨rfl, rfl⟩⟩
  case isFalse b25 =>
    have e25 : field x 25 1 = bit1 false := (field_one_eq x 25 false).2 (eq_false_of_ne_true b25)
    split
    case isTrue b4 =>
      have b7 : bit x 7 = false := by
        rw [b4, Bool.and_true] at h
        exact h.resolve_left b25
      exact ⟨e25, registerShiftField_eq_iff.2 ⟨rfl, b7, rfl, b4, rfl⟩⟩
    case isFalse b4 => exact ⟨e25, shiftedField_eq_iff.2 ⟨rfl, rfl, eq_false_of_ne_true b4, rfl⟩⟩

end

end Sys2Proof
end

section
/-! PROOFS. Decoding (30_encoding.md R74): what each class of words decodes to, and that decoding and encoding undo each
other. -/

namespace Sys2Proof

/-! ## Constructors by opcode and by bits -/

/-- The constructor of a data-processing opcode (R76). -/
def Instr.ofOpcode (op : BitVec 4) : Cond → Bool → Reg → Reg → Op2 → Instr :=
  match op with
  | 0#4 => .and | 1#4 => .eor | 2#4 => .sub | 3#4 => .rsb | 4#4 => .add | 5#4 => .adc | 6#4 => .sbc | 7#4 => .rsc
  | 8#4 => .tst | 9#4 => .teq | 10#4 => .cmp | 11#4 => .cmn | 12#4 => .orr | 13#4 => .mov | 14#4 => .bic | _ => .mvn

section
variable {op : BitVec 4} {c : Cond} {sb : Bool} {rn rd : Reg} {op2 : Op2}

theorem encode_ofOpcode : encode (.ofOpcode op c sb rn rd op2) = encodeDataProcessing op c sb rn rd op2 := by
  obtain ⟨⟨n, hn⟩⟩ := op
  interval_cases n <;> rfl

theorem wf_ofOpcode {cpu : Cpu} : (Instr.ofOpcode op c sb rn rd op2).wf cpu = true := by
  obtain ⟨⟨n, hn⟩⟩ := op
  interval_cases n <;> rfl

end

theorem decodeDataProcessing_eq (x : Word) : decodeDataProcessing x =
    .ofOpcode (field x 21 4) (condOfCode (field x 28 4)) (bit x 20) (field x 16 4) (field x 12 4) (decodeOp2 x) := by
  unfold decodeDataProcessing
  generalize field x 21 4 = op
  obtain ⟨⟨n, hn⟩⟩ := op
  interval_cases n <;> rfl

/-- The constructor of a single data transfer by its B and L bits (R81). -/
def Instr.singleTransfer (byte load : Bool) : Cond → Bool → Bool → Bool → Reg → Reg → Offset → Instr :=
  match byte, load with
  | false, true => .ldr
  | true, true => .ldrb
  | false, false => .str
  | true, false => .strb

section
variable {byte load : Bool} {c : Cond} {p u w : Bool} {rn rd : Reg} {off : Offset}

theorem encode_singleTransfer : encode (.singleTransfer byte load c p u w rn rd off) =
    encodeSingleTransfer byte load c p u w rn rd off := by
  cases byte <;> cases load <;> rfl

theorem wf_singleTransfer {cpu : Cpu} : (Instr.singleTransfer byte load c p u w rn rd off).wf cpu = true := by
  cases byte <;> cases load <;> rfl

end

theorem decodeSingleTransfer_eq (x : Word) (off : Offset) : decodeSingleTransfer x off =
    .singleTransfer (bit x 22) (bit x 20) (condOfCode (field x 28 4)) (bit x 24) (bit x 23) (bit x 21) (field x 16 4)
      (field x 12 4) off := by
  unfold decodeSingleTransfer
  cases bit x 22 <;> cases bit x 20 <;> rfl

theorem mulPattern_iff {x : Word} :
    mulPattern (field x 8 16) (field x 5 2) = true ↔ field x 22 2 = 0#2 ∧ field x 5 2 = 0#2 := by
  simp (disch := decide) only [mulPattern, field_field, Nat.reduceAdd, Bool.and_eq_true, beq_iff_eq]

theorem swpPattern_iff {x : Word} : swpPattern (field x 8 16) (field x 5 2) = true ↔
    bit x 23 = false ∧ field x 20 2 = 0#2 ∧ field x 8 4 = 0#4 ∧ field x 5 2 = 0#2 := by
  simp (disch := decide) only [swpPattern, field_field, bit_field, Nat.reduceAdd, Bool.and_eq_true, beq_iff_eq,
    Bool.not_eq_true', and_assoc]

/-! ## Decoding by class (R74) -/

section
variable {cpu : Cpu} {x : Word}

theorem decode_multiplySpace (h : field x 25 3 = 0#3) (h7 : bit x 7 = true) (h4 : bit x 4 = true) :
    decode cpu x = decodeMultiplySpace cpu x := by simp only [decode, h, h7, h4, Bool.and_self, if_true]

/-- UND-A: bit 24 = 1 without the SWP pattern of CPU-020 (R89, R251). -/
theorem decode_undA (h : field x 25 3 = 0#3) (h7 : bit x 7 = true) (h4 : bit x 4 = true) (h24 : bit x 24 = true)
    (hs : (cpu == .cpu020 && swpPattern (field x 8 16) (field x 5 2)) = false) :
    decode cpu x = .undA (condOfCode (field x 28 4)) (field x 8 16) (field x 5 2) (field x 0 4) := by
  rw [decode_multiplySpace h h7 h4, decodeMultiplySpace, if_pos h24, if_neg (ne_true_of_eq_false hs)]

/-- SWP and SWPB by bit 22, on CPU-020 only (R80). -/
theorem decode_swap (h : field x 25 3 = 0#3) (h7 : bit x 7 = true) (h4 : bit x 4 = true) (h24 : bit x 24 = true)
    (hs : swpPattern (field x 8 16) (field x 5 2) = true) :
    decode .cpu020 x =
      (if bit x 22 then Instr.swpb else Instr.swp) (condOfCode (field x 28 4)) (field x 16 4) (field x 12 4)
        (field x 0 4) := by
  rw [decode_multiplySpace h h7 h4, decodeMultiplySpace, if_pos h24, if_pos (by rw [hs]; rfl)]
  cases bit x 22 <;> rfl

/-- MUL and MLA by bit 21 (R79). -/
theorem decode_multiply (h : field x 25 3 = 0#3) (h7 : bit x 7 = true) (h4 : bit x 4 = true) (h24 : bit x 24 = false)
    (hm : mulPattern (field x 8 16) (field x 5 2) = true) :
    decode cpu x =
      (if bit x 21 then Instr.mla else Instr.mul) (condOfCode (field x 28 4)) (bit x 20) (field x 16 4) (field x 12 4)
        (field x 8 4) (field x 0 4) := by
  rw [decode_multiplySpace h h7 h4, decodeMultiplySpace, if_neg (ne_true_of_eq_false h24), if_pos hm]
  cases bit x 21 <;> rfl

/-- The unallocated multiply space (R90). -/
theorem decode_mulSpace (h : field x 25 3 = 0#3) (h7 : bit x 7 = true) (h4 : bit x 4 = true) (h24 : bit x 24 = false)
    (hm : mulPattern (field x 8 16) (field x 5 2) = false) :
    decode cpu x = .mulSpace (condOfCode (field x 28 4)) (field x 8 16) (field x 5 2) (field x 0 4) := by
  rw [decode_multiplySpace h h7 h4, decodeMultiplySpace, if_neg (ne_true_of_eq_false h24), if_neg (ne_true_of_eq_false hm)]

/-- Data processing: classes 000 and 001 outside the multiply space. -/
theorem decode_dataProcessing (h : field x 26 2 = 0#2) (hs : bit x 25 = true ∨ (bit x 7 && bit x 4) = false) :
    decode cpu x = decodeDataProcessing x := by
  cases b25 : bit x 25
  · have h3 : field x 25 3 = 0#3 := (field_eq_append_bit_iff x 25 0#2 false).2 ⟨h, b25⟩
    have hs : (bit x 7 && bit x 4) = false := hs.resolve_left (ne_true_of_eq_false b25)
    simp only [decode, h3, hs, Bool.false_eq_true, if_false]
  · have h3 : field x 25 3 = 1#3 := (field_eq_append_bit_iff x 25 0#2 true).2 ⟨h, b25⟩
    simp only [decode, h3]

theorem decode_immediateTransfer (h : field x 25 3 = 2#3) :
    decode cpu x = decodeSingleTransfer x (.imm (field x 0 12)) := by simp only [decode, h]

theorem decode_registerOffsetTransfer (h : field x 25 3 = 3#3) (h4 : bit x 4 = false) : decode cpu x =
    decodeSingleTransfer x (.reg (field x 7 5) (shiftOfCode (field x 5 2)) (field x 0 4)) := by
  simp only [decode, h, h4, Bool.false_eq_true, if_false]

theorem decode_undB (h : field x 25 3 = 3#3) (h4 : bit x 4 = true) : decode cpu x =
    .undB (condOfCode (field x 28 4)) (field x 5 20) (field x 0 4) := by
  simp only [decode, h, h4, if_true]

theorem decode_blockTransfer (h : field x 25 3 = 4#3) : decode cpu x =
    (if bit x 20 then Instr.ldm else Instr.stm) (condOfCode (field x 28 4)) (bit x 24) (bit x 23) (bit x 22) (bit x 21)
      (field x 16 4) (field x 0 16) := by
  simp only [decode, h]
  cases bit x 20 <;> rfl

theorem decode_branch (h : field x 25 3 = 5#3) : decode cpu x =
    (if bit x 24 then Instr.bl else Instr.b) (condOfCode (field x 28 4)) (field x 0 24) := by
  simp only [decode, h]
  cases bit x 24 <;> rfl

theorem decode_coprocTransfer (h : field x 25 3 = 6#3) : decode cpu x =
    (if bit x 20 then Instr.ldc else Instr.stc) (condOfCode (field x 28 4)) (bit x 24) (bit x 23) (bit x 22) (bit x 21)
      (field x 16 4) (field x 12 4) (field x 8 4) (field x 0 8) := by
  simp only [decode, h]
  cases bit x 20 <;> rfl

theorem decode_swi (h : field x 25 3 = 7#3) (h24 : bit x 24 = true) :
    decode cpu x = .swi (condOfCode (field x 28 4)) (field x 0 24) := by
  simp only [decode, h, decodeClass7, h24, if_true]

theorem decode_registerTransfer (h : field x 25 3 = 7#3) (h24 : bit x 24 = false) (h4 : bit x 4 = true) : decode cpu x =
    (if bit x 20 then Instr.mrc else Instr.mcr) (condOfCode (field x 28 4)) (field x 21 3) (field x 16 4) (field x 12 4)
      (field x 8 4) (field x 5 3) (field x 0 4) := by
  simp only [decode, h, decodeClass7, h24, h4, Bool.false_eq_true, if_false, if_true]
  cases bit x 20 <;> rfl

theorem decode_cdo (h : field x 25 3 = 7#3) (h24 : bit x 24 = false) (h4 : bit x 4 = false) : decode cpu x =
    .cdo (condOfCode (field x 28 4)) (field x 20 4) (field x 16 4) (field x 12 4) (field x 8 4) (field x 5 3)
      (field x 0 4) := by
  simp only [decode, h, decodeClass7, h24, h4, Bool.false_eq_true, if_false]

end

/-! ## Decoding undoes encoding -/

section
variable {cpu : Cpu} {x : Word} {c : Cond}

theorem decode_of_encodeDataProcessing {op : BitVec 4} {sb : Bool} {rn rd : Reg} {op2 : Op2}
    (h : encodeDataProcessing op c sb rn rd op2 = x) : decode cpu x = .ofOpcode op c sb rn rd op2 := by
  obtain ⟨rfl, h26, h25, rfl, rfl, rfl, rfl, h0⟩ := encodeDataProcessing_eq_iff.1 h
  obtain ⟨rfl, space⟩ := decodeOp2_of_encodeOp2 h25 h0
  rw [decode_dataProcessing h26 space, decodeDataProcessing_eq]

theorem decode_of_encodeSingleTransfer {byte load p u w : Bool} {rn rd : Reg} {off : Offset}
    (h : encodeSingleTransfer byte load c p u w rn rd off = x) :
    decode cpu x = .singleTransfer byte load c p u w rn rd off := by
  obtain ⟨rfl, h26, h25, rfl, rfl, rfl, rfl, rfl, rfl, rfl, h0⟩ := encodeSingleTransfer_eq_iff.1 h
  cases off with
  | imm off =>
    have h3 : field x 25 3 = 2#3 := (field_eq_append_iff x 25 1#2 0#1).2 ⟨h26, h25⟩
    rw [decode_immediateTransfer h3, decodeSingleTransfer_eq, h0, encodeOffset]
  | reg amt ty rm =>
    have h3 : field x 25 3 = 3#3 := (field_eq_append_iff x 25 1#2 1#1).2 ⟨h26, h25⟩
    obtain ⟨rfl, rfl, b4, rfl⟩ := shiftedField_eq_iff.1 h0
    rw [decode_registerOffsetTransfer h3 b4, decodeSingleTransfer_eq]

theorem decode_of_encodeBlockTransfer {load p u sb w : Bool} {rn : Reg} {list : BitVec 16}
    (h : encodeBlockTransfer load c p u sb w rn list = x) :
    decode cpu x = (if load then Instr.ldm else Instr.stm) c p u sb w rn list := by
  obtain ⟨rfl, h3, rfl, rfl, rfl, rfl, rfl, rfl, rfl⟩ := encodeBlockTransfer_eq_iff.1 h
  exact decode_blockTransfer h3

theorem decode_of_encodeCoprocTransfer {load p u n w : Bool} {rn crd cp : Reg} {off : BitVec 8}
    (h : encodeCoprocTransfer load c p u n w rn crd cp off = x) :
    decode cpu x = (if load then Instr.ldc else Instr.stc) c p u n w rn crd cp off := by
  obtain ⟨rfl, h3, rfl, rfl, rfl, rfl, rfl, rfl, rfl, rfl, rfl⟩ := encodeCoprocTransfer_eq_iff.1 h
  exact decode_coprocTransfer h3

theorem decode_of_encodeRegisterTransfer {load : Bool} {opc : BitVec 3} {crn rd cp : Reg} {aux : BitVec 3} {crm : Reg}
    (h : encodeRegisterTransfer load c opc crn rd cp aux crm = x) :
    decode cpu x = (if load then Instr.mrc else Instr.mcr) c opc crn rd cp aux crm := by
  obtain ⟨rfl, h3, b24, rfl, rfl, rfl, rfl, rfl, rfl, b4, rfl⟩ := encodeRegisterTransfer_eq_iff.1 h
  exact decode_registerTransfer h3 b24 b4

theorem decode_of_encode_cdo {opc : BitVec 4} {crn crd cp : Reg} {aux : BitVec 3} {crm : Reg}
    (h : encode (.cdo c opc crn crd cp aux crm) = x) : decode cpu x = .cdo c opc crn crd cp aux crm := by
  obtain ⟨rfl, h3, b24, rfl, rfl, rfl, rfl, rfl, b4, rfl⟩ := encode_cdo_eq_iff.1 h
  exact decode_cdo h3 b24 b4

theorem decode_of_encode_b {off : BitVec 24} (h : encode (.b c off) = x) : decode cpu x = .b c off := by
  obtain ⟨rfl, h3, b24, rfl⟩ := (branchWord_eq_iff (k := 5#3) (b := false)).1 h
  rw [decode_branch h3, b24]
  rfl

theorem decode_of_encode_bl {off : BitVec 24} (h : encode (.bl c off) = x) : decode cpu x = .bl c off := by
  obtain ⟨rfl, h3, b24, rfl⟩ := (branchWord_eq_iff (k := 5#3) (b := true)).1 h
  rw [decode_branch h3, b24]
  rfl

theorem decode_of_encode_swi {comment : BitVec 24} (h : encode (.swi c comment) = x) :
    decode cpu x = .swi c comment := by
  obtain ⟨rfl, h3, b24, rfl⟩ := (branchWord_eq_iff (k := 7#3) (b := true)).1 h
  exact decode_swi h3 b24

theorem decode_of_encode_undB {hi : BitVec 20} {lo : BitVec 4} (h : encode (.undB c hi lo) = x) :
    decode cpu x = .undB c hi lo := by
  obtain ⟨rfl, h3, rfl, b4, rfl⟩ := encode_undB_eq_iff.1 h
  exact decode_undB h3 b4

theorem decode_of_encode_mul {sb : Bool} {rd rn rs rm : Reg} (h : encode (.mul c sb rd rn rs rm) = x) :
    decode cpu x = .mul c sb rd rn rs rm := by
  obtain ⟨rfl, h3, b24, h22, b21, rfl, rfl, rfl, rfl, b7, h5, b4, rfl⟩ := (multiplyWord_eq_iff (acc := false)).1 h
  rw [decode_multiply h3 b7 b4 b24 (mulPattern_iff.2 ⟨h22, h5⟩), b21]
  rfl

theorem decode_of_encode_mla {sb : Bool} {rd rn rs rm : Reg} (h : encode (.mla c sb rd rn rs rm) = x) :
    decode cpu x = .mla c sb rd rn rs rm := by
  obtain ⟨rfl, h3, b24, h22, b21, rfl, rfl, rfl, rfl, b7, h5, b4, rfl⟩ := (multiplyWord_eq_iff (acc := true)).1 h
  rw [decode_multiply h3 b7 b4 b24 (mulPattern_iff.2 ⟨h22, h5⟩), b21]
  rfl

theorem decode_of_encode_swp {rn rd rm : Reg} (h : encode (.swp c rn rd rm) = x) :
    decode .cpu020 x = .swp c rn rd rm := by
  obtain ⟨rfl, h3, b24, b23, b22, h20, rfl, rfl, h8, b7, h5, b4, rfl⟩ := (swapWord_eq_iff (byte := false)).1 h
  rw [decode_swap h3 b7 b4 b24 (swpPattern_iff.2 ⟨b23, h20, h8, h5⟩), b22]
  rfl

theorem decode_of_encode_swpb {rn rd rm : Reg} (h : encode (.swpb c rn rd rm) = x) :
    decode .cpu020 x = .swpb c rn rd rm := by
  obtain ⟨rfl, h3, b24, b23, b22, h20, rfl, rfl, h8, b7, h5, b4, rfl⟩ := (swapWord_eq_iff (byte := true)).1 h
  rw [decode_swap h3 b7 b4 b24 (swpPattern_iff.2 ⟨b23, h20, h8, h5⟩), b22]
  rfl

theorem decode_of_encode_mulSpace {hi : BitVec 16} {mid : BitVec 2} {lo : BitVec 4}
    (hm : mulPattern hi mid = false) (h : encode (.mulSpace c hi mid lo) = x) :
    decode cpu x = .mulSpace c hi mid lo := by
  obtain ⟨rfl, h3, b24, rfl, b7, rfl, b4, rfl⟩ := (spaceWord_eq_iff (und := false)).1 h
  exact decode_mulSpace h3 b7 b4 b24 hm

theorem decode_of_encode_undA {hi : BitVec 16} {mid : BitVec 2} {lo : BitVec 4}
    (hs : (cpu == .cpu020 && swpPattern hi mid) = false) (h : encode (.undA c hi mid lo) = x) :
    decode cpu x = .undA c hi mid lo := by
  obtain ⟨rfl, h3, b24, rfl, b7, rfl, b4, rfl⟩ := (spaceWord_eq_iff (und := true)).1 h
  exact decode_undA h3 b7 b4 b24 hs

end

/-- Settles O1: the fields of the word of each format give back the operands they were made of. -/
theorem decodeEncode : Obligations.DecodeEncode := by
  intro cpu i hwf
  cases i
  case and => exact decode_of_encodeDataProcessing (op := 0#4) rfl
  case eor => exact decode_of_encodeDataProcessing (op := 1#4) rfl
  case sub => exact decode_of_encodeDataProcessing (op := 2#4) rfl
  case rsb => exact decode_of_encodeDataProcessing (op := 3#4) rfl
  case add => exact decode_of_encodeDataProcessing (op := 4#4) rfl
  case adc => exact decode_of_encodeDataProcessing (op := 5#4) rfl
  case sbc => exact decode_of_encodeDataProcessing (op := 6#4) rfl
  case rsc => exact decode_of_encodeDataProcessing (op := 7#4) rfl
  case tst => exact decode_of_encodeDataProcessing (op := 8#4) rfl
  case teq => exact decode_of_encodeDataProcessing (op := 9#4) rfl
  case cmp => exact decode_of_encodeDataProcessing (op := 10#4) rfl
  case cmn => exact decode_of_encodeDataProcessing (op := 11#4) rfl
  case orr => exact decode_of_encodeDataProcessing (op := 12#4) rfl
  case mov => exact decode_of_encodeDataProcessing (op := 13#4) rfl
  case bic => exact decode_of_encodeDataProcessing (op := 14#4) rfl
  case mvn => exact decode_of_encodeDataProcessing (op := 15#4) rfl
  case mul => exact decode_of_encode_mul rfl
  case mla => exact decode_of_encode_mla rfl
  case mulSpace => exact decode_of_encode_mulSpace (by simpa only [Instr.wf, Bool.not_eq_true'] using hwf) rfl
  case swp =>
    obtain rfl : cpu = .cpu020 := by simpa only [Instr.wf, beq_iff_eq] using hwf
    exact decode_of_encode_swp rfl
  case swpb =>
    obtain rfl : cpu = .cpu020 := by simpa only [Instr.wf, beq_iff_eq] using hwf
    exact decode_of_encode_swpb rfl
  case ldr => exact decode_of_encodeSingleTransfer (byte := false) (load := true) rfl
  case ldrb => exact decode_of_encodeSingleTransfer (byte := true) (load := true) rfl
  case str => exact decode_of_encodeSingleTransfer (byte := false) (load := false) rfl
  case strb => exact decode_of_encodeSingleTransfer (byte := true) (load := false) rfl
  case stm => exact decode_of_encodeBlockTransfer (load := false) rfl
  case ldm => exact decode_of_encodeBlockTransfer (load := true) rfl
  case b => exact decode_of_encode_b rfl
  case bl => exact decode_of_encode_bl rfl
  case stc => exact decode_of_encodeCoprocTransfer (load := false) rfl
  case ldc => exact decode_of_encodeCoprocTransfer (load := true) rfl
  case cdo => exact decode_of_encode_cdo rfl
  case mcr => exact decode_of_encodeRegisterTransfer (load := false) rfl
  case mrc => exact decode_of_encodeRegisterTransfer (load := true) rfl
  case swi => exact decode_of_encode_swi rfl
  case undA => exact decode_of_encode_undA (by simpa only [Instr.wf, Bool.not_eq_true'] using hwf) rfl
  case undB => exact decode_of_encode_undB rfl

/-! ## Encoding undoes decoding -/

/-- `i` is an instruction of processor `cpu`, and `x` is its word. -/
def Instr.IsReading (cpu : Cpu) (x : Word) (i : Instr) : Prop := i.wf cpu = true ∧ encode i = x

section
variable {cpu : Cpu} {x : Word}

theorem isReading_dataProcessing (h : field x 26 2 = 0#2) (hs : bit x 25 = true ∨ (bit x 7 && bit x 4) = false) :
    (decodeDataProcessing x).IsReading cpu x := by
  obtain ⟨h25, h0⟩ := encodeOp2_decodeOp2 hs
  rw [decodeDataProcessing_eq]
  exact ⟨wf_ofOpcode, encode_ofOpcode.trans
    (encodeDataProcessing_eq_iff.2 ⟨rfl, h, h25, rfl, rfl, rfl, rfl, h0⟩)⟩

theorem isReading_singleTransfer {off : Offset} (h : field x 26 2 = 1#2) (h25 : field x 25 1 = (encodeOffset off).1)
    (h0 : field x 0 12 = (encodeOffset off).2) : (decodeSingleTransfer x off).IsReading cpu x := by
  rw [decodeSingleTransfer_eq]
  exact ⟨wf_singleTransfer, encode_singleTransfer.trans
    (encodeSingleTransfer_eq_iff.2 ⟨rfl, h, h25, rfl, rfl, rfl, rfl, rfl, rfl, rfl, h0⟩)⟩

/-- Class 000 with bits 7 and 4 both 1. -/
theorem isReading_multiplySpace (h3 : field x 25 3 = 0#3) (b7 : bit x 7 = true) (b4 : bit x 4 = true) :
    (decode cpu x).IsReading cpu x := by
  cases b24 : bit x 24
  case false =>
    cases hm : mulPattern (field x 8 16) (field x 5 2)
    case false =>
      rw [decode_mulSpace h3 b7 b4 b24 hm]
      exact ⟨congrArg not hm, (spaceWord_eq_iff (und := false)).2 ⟨rfl, h3, b24, rfl, b7, rfl, b4, rfl⟩⟩
    case true =>
      obtain ⟨h22, h5⟩ := mulPattern_iff.1 hm
      rw [decode_multiply h3 b7 b4 b24 hm]
      cases b21 : bit x 21
      case false =>
        exact ⟨rfl, (multiplyWord_eq_iff (acc := false)).2
          ⟨rfl, h3, b24, h22, b21, rfl, rfl, rfl, rfl, b7, h5, b4, rfl⟩⟩
      case true =>
        exact ⟨rfl, (multiplyWord_eq_iff (acc := true)).2
          ⟨rfl, h3, b24, h22, b21, rfl, rfl, rfl, rfl, b7, h5, b4, rfl⟩⟩
  case true =>
    cases hs : cpu == .cpu020 && swpPattern (field x 8 16) (field x 5 2)
    case false =>
      rw [decode_undA h3 b7 b4 b24 hs]
      exact ⟨congrArg not hs, (spaceWord_eq_iff (und := true)).2 ⟨rfl, h3, b24, rfl, b7, rfl, b4, rfl⟩⟩
    case true =>
      rw [Bool.and_eq_true, beq_iff_eq] at hs
      obtain ⟨rfl, hs⟩ := hs
      obtain ⟨b23, h20, h8, h5⟩ := swpPattern_iff.1 hs
      rw [decode_swap h3 b7 b4 b24 hs]
      cases b22 : bit x 22
      case false =>
        exact ⟨rfl, (swapWord_eq_iff (byte := false)).2
          ⟨rfl, h3, b24, b23, b22, h20, rfl, rfl, h8, b7, h5, b4, rfl⟩⟩
      case true =>
        exact ⟨rfl, (swapWord_eq_iff (byte := true)).2
          ⟨rfl, h3, b24, b23, b22, h20, rfl, rfl, h8, b7, h5, b4, rfl⟩⟩

theorem isReading_class0 (h : field x 25 3 = 0#3) : (decode cpu x).IsReading cpu x := by
  cases hs : bit x 7 && bit x 4
  case false =>
    obtain ⟨h26, -⟩ := (field_eq_append_bit_iff x 25 0#2 false).1 h
    rw [decode_dataProcessing h26 (.inr hs)]
    exact isReading_dataProcessing h26 (.inr hs)
  case true =>
    obtain ⟨b7, b4⟩ := (Bool.and_eq_true _ _).mp hs
    exact isReading_multiplySpace h b7 b4

theorem isReading_class1 (h : field x 25 3 = 1#3) : (decode cpu x).IsReading cpu x := by
  obtain ⟨h26, b25⟩ := (field_eq_append_bit_iff x 25 0#2 true).1 h
  rw [decode_dataProcessing h26 (.inl b25)]
  exact isReading_dataProcessing h26 (.inl b25)

theorem isReading_class2 (h : field x 25 3 = 2#3) : (decode cpu x).IsReading cpu x := by
  obtain ⟨h26, h25⟩ := (field_eq_append_iff x 25 1#2 0#1).1 h
  rw [decode_immediateTransfer h]
  exact isReading_singleTransfer h26 h25 rfl

theorem isReading_class3 (h : field x 25 3 = 3#3) : (decode cpu x).IsReading cpu x := by
  cases b4 : bit x 4
  case false =>
    obtain ⟨h26, h25⟩ := (field_eq_append_iff x 25 1#2 1#1).1 h
    rw [decode_registerOffsetTransfer h b4]
    exact isReading_singleTransfer h26 h25 (shiftedField_eq_iff.2 ⟨rfl, rfl, b4, rfl⟩)
  case true =>
    rw [decode_undB h b4]
    exact ⟨rfl, encode_undB_eq_iff.2 ⟨rfl, h, rfl, b4, rfl⟩⟩

theorem isReading_class4 (h : field x 25 3 = 4#3) : (decode cpu x).IsReading cpu x := by
  rw [decode_blockTransfer h]
  cases b20 : bit x 20 <;>
    exact ⟨rfl, encodeBlockTransfer_eq_iff.2 ⟨rfl, h, rfl, rfl, rfl, rfl, b20, rfl, rfl⟩⟩

theorem isReading_class5 (h : field x 25 3 = 5#3) : (decode cpu x).IsReading cpu x := by
  rw [decode_branch h]
  cases b24 : bit x 24
  case false => exact ⟨rfl, (branchWord_eq_iff (k := 5#3) (b := false)).2 ⟨rfl, h, b24, rfl⟩⟩
  case true => exact ⟨rfl, (branchWord_eq_iff (k := 5#3) (b := true)).2 ⟨rfl, h, b24, rfl⟩⟩

theorem isReading_class6 (h : field x 25 3 = 6#3) : (decode cpu x).IsReading cpu x := by
  rw [decode_coprocTransfer h]
  cases b20 : bit x 20 <;>
    exact ⟨rfl, encodeCoprocTransfer_eq_iff.2 ⟨rfl, h, rfl, rfl, rfl, rfl, b20, rfl, rfl, rfl, rfl⟩⟩

theorem isReading_class7 (h : field x 25 3 = 7#3) : (decode cpu x).IsReading cpu x := by
  cases b24 : bit x 24
  case true =>
    rw [decode_swi h b24]
    exact ⟨rfl, (branchWord_eq_iff (k := 7#3) (b := true)).2 ⟨rfl, h, b24, rfl⟩⟩
  case false =>
    cases b4 : bit x 4
    case false =>
      rw [decode_cdo h b24 b4]
      exact ⟨rfl, encode_cdo_eq_iff.2 ⟨rfl, h, b24, rfl, rfl, rfl, rfl, rfl, b4, rfl⟩⟩
    case true =>
      rw [decode_registerTransfer h b24 b4]
      cases b20 : bit x 20 <;>
        exact ⟨rfl, encodeRegisterTransfer_eq_iff.2 ⟨rfl, h, b24, rfl, b20, rfl, rfl, rfl, rfl, b4, rfl⟩⟩

theorem decode_isReading (cpu : Cpu) (x : Word) : (decode cpu x).IsReading cpu x :=
  match h : field x 25 3 with
  | 0#3 => isReading_class0 h
  | 1#3 => isReading_class1 h
  | 2#3 => isReading_class2 h
  | 3#3 => isReading_class3 h
  | 4#3 => isReading_class4 h
  | 5#3 => isReading_class5 h
  | 6#3 => isReading_class6 h
  | 7#3 => isReading_class7 h

end

/-- Settles O2, class by class of R74. -/
theorem encodeDecode : Obligations.EncodeDecode := decode_isReading

/-- The decoder answers exactly the instruction of the processor whose word it is given. -/
theorem decode_eq_iff {cpu : Cpu} {x : Word} {i : Instr} : decode cpu x = i ↔ i.IsReading cpu x := by
  constructor
  · rintro rfl
    exact decode_isReading cpu x
  · rintro ⟨hwf, rfl⟩
    exact decodeEncode cpu i hwf

end Sys2Proof
end

section
/-! PROOFS. The undefined patterns and the one difference between the processors (30_encoding.md R89, R94, R251). -/

namespace Sys2Proof



theorem and_ones {l : Nat} {y m : BitVec l} (h : m = BitVec.allOnes l) : y &&& m = y := h ▸ BitVec.and_allOnes

section
variable {x : Word}

theorem undA_mask_iff : x &&& 0x0F000090#32 = 0x01000090#32 ↔
    field x 25 3 = 0#3 ∧ bit x 24 = true ∧ bit x 7 = true ∧ bit x 4 = true := by
  rw [eq_comm]
  change 0#4 ++ 0#3 ++ bit1 true ++ 0#16 ++ bit1 true ++ 0#2 ++ bit1 true ++ 0#4 = x &&& 0x0F000090#32 ↔ _
  simp (disch := decide) only [append_eq_iff, field_field, Nat.reduceAdd, BitVec.extractLsb'_and,
    BitVec.reduceExtractLsb', BitVec.and_zero, and_ones, true_and, and_true, and_assoc]
  simp only [eq_comm (b := field x _ _), field_one_eq]

theorem undB_mask_iff : x &&& 0x0E000010#32 = 0x06000010#32 ↔ field x 25 3 = 3#3 ∧ bit x 4 = true := by
  rw [eq_comm]
  change 0#4 ++ 3#3 ++ 0#20 ++ bit1 true ++ 0#4 = x &&& 0x0E000010#32 ↔ _
  simp (disch := decide) only [append_eq_iff, field_field, Nat.reduceAdd, BitVec.extractLsb'_and,
    BitVec.reduceExtractLsb', BitVec.and_zero, and_ones, true_and, and_true]
  simp only [eq_comm (b := field x _ _), field_one_eq]

/-- The SWP pattern as a mask. -/
theorem swp_mask_iff : x &&& 0x0FB00FF0#32 = 0x01000090#32 ↔
    field x 25 3 = 0#3 ∧ bit x 24 = true ∧ bit x 7 = true ∧ bit x 4 = true ∧
      swpPattern (field x 8 16) (field x 5 2) = true := by
  have parts : x &&& 0x0FB00FF0#32 = 0x01000090#32 ↔
      field x 25 3 = 0#3 ∧ bit x 24 = true ∧ bit x 23 = false ∧ field x 20 2 = 0#2 ∧ field x 8 4 = 0#4 ∧
        bit x 7 = true ∧ field x 5 2 = 0#2 ∧ bit x 4 = true := by
    rw [eq_comm]
    change 0#4 ++ 0#3 ++ bit1 true ++ bit1 false ++ 0#1 ++ 0#2 ++ 0#8 ++ 0#4 ++ bit1 true ++ 0#2 ++
      bit1 true ++ 0#4 = x &&& 0x0FB00FF0#32 ↔ _
    simp (disch := decide) only [append_eq_iff, field_field, Nat.reduceAdd, BitVec.extractLsb'_and,
      BitVec.reduceExtractLsb', BitVec.and_zero, and_ones, true_and, and_true, and_assoc]
    simp only [eq_comm (b := field x _ _), field_one_eq]
  rw [parts, swpPattern_iff]
  tauto

end

/-- The instructions that only CPU-010 has: UND-A with the bits of SWP (R251). -/
theorem wf_cpu020_or_swpPattern {i : Instr} (h : i.wf .cpu010 = true) :
    i.wf .cpu020 = true ∨ ∃ c hi mid lo, i = .undA c hi mid lo ∧ swpPattern hi mid = true := by
  cases i
  case undA c hi mid lo =>
    cases hs : swpPattern hi mid
    case false => exact .inl (congrArg not hs)
    case true => exact .inr ⟨c, hi, mid, lo, rfl, hs⟩
  case swp | swpb => cases h
  all_goals exact .inl h

theorem decode_cpu010_eq_undA_iff {x : Word} {c : Cond} {hi : BitVec 16} {mid : BitVec 2} {lo : BitVec 4} :
    decode .cpu010 x = .undA c hi mid lo ↔
      condOfCode (field x 28 4) = c ∧ field x 25 3 = 0#3 ∧ bit x 24 = true ∧ field x 8 16 = hi ∧ bit x 7 = true ∧
        field x 5 2 = mid ∧ bit x 4 = true ∧ field x 0 4 = lo :=
  decode_eq_iff.trans ((and_iff_right rfl).trans (spaceWord_eq_iff (und := true)))

theorem decode_eq_undB_iff {cpu : Cpu} {x : Word} {c : Cond} {hi : BitVec 20} {lo : BitVec 4} :
    decode cpu x = .undB c hi lo ↔
      condOfCode (field x 28 4) = c ∧ field x 25 3 = 3#3 ∧ field x 5 20 = hi ∧ bit x 4 = true ∧ field x 0 4 = lo :=
  decode_eq_iff.trans ((and_iff_right rfl).trans encode_undB_eq_iff)

/-- Settles O3: each pattern by the fields that its mask selects. -/
theorem undefinedSpace : Obligations.UndefinedSpace := by
  intro x
  refine ⟨?undA, ?undB, ?differ⟩
  case undA =>
    rw [undA_mask_iff]
    constructor
    · rintro ⟨c, hi, mid, lo, h⟩
      obtain ⟨-, h3, b24, -, b7, -, b4, -⟩ := decode_cpu010_eq_undA_iff.1 h
      exact ⟨h3, b24, b7, b4⟩
    · rintro ⟨h3, b24, b7, b4⟩
      exact ⟨_, _, _, _, decode_cpu010_eq_undA_iff.2 ⟨rfl, h3, b24, rfl, b7, rfl, b4, rfl⟩⟩
  case undB =>
    intro cpu
    rw [undB_mask_iff]
    constructor
    · rintro ⟨c, hi, lo, h⟩
      obtain ⟨-, h3, -, b4, -⟩ := decode_eq_undB_iff.1 h
      exact ⟨h3, b4⟩
    · rintro ⟨h3, b4⟩
      exact ⟨_, _, _, decode_eq_undB_iff.2 ⟨rfl, h3, rfl, b4, rfl⟩⟩
  case differ =>
    rw [swp_mask_iff]
    constructor
    · intro differ
      obtain ⟨hwf, hx⟩ := decode_isReading .cpu010 x
      obtain hwf' | ⟨c, hi, mid, lo, h, hs⟩ := wf_cpu020_or_swpPattern hwf
      · exact absurd (decode_eq_iff.2 ⟨hwf', hx⟩).symm differ
      · obtain ⟨-, h3, b24, rfl, b7, rfl, b4, -⟩ := decode_cpu010_eq_undA_iff.1 h
        exact ⟨h3, b24, b7, b4, hs⟩
    · rintro ⟨h3, b24, b7, b4, hs⟩ same
      rw [decode_cpu010_eq_undA_iff.2 ⟨rfl, h3, b24, rfl, b7, rfl, b4, rfl⟩] at same
      obtain ⟨hwf, -⟩ := decode_eq_iff.1 same.symm
      rw [Instr.wf, hs] at hwf
      cases hwf

/-- Settles O4: each word by evaluation of the decoder. -/
theorem decodeWords : Obligations.DecodeWords := by
  unfold Obligations.DecodeWords
  decide

end Sys2Proof
end

section
/-! PROOFS. Conditions, the rotated immediate, the compare and the stops the spec names (30_encoding.md R72, R73, R78, R90). -/

namespace Sys2Proof.Machine

/-! ## A false condition (R73) -/

/-- The test of the condition is the outermost choice of every meaning. -/
theorem exec_of_condition_false {i : Instr} {s : State} (h : condPassed i.cond s.psr = false) :
    exec i s = .next (retire (advance s)) := by
  cases i <;> exact if_neg (ne_true_of_eq_false h)

/-- Settles O7: an instruction whose condition is false ends by going on. -/
theorem conditionFails : Obligations.ConditionFails :=
  fun _ _ h => ⟨_, exec_of_condition_false h, rfl, rfl, rfl, rfl, rfl, rfl, rfl, rfl, rfl, rfl, rfl, rfl⟩

/-! ## The rotated immediate (R78, R116) -/

theorem bit_rotateRight (v : Word) (r : Nat) {i : Nat} (h : i < 32) : bit (v.rotateRight r) i = bit v ((i + r) % 32) := by
  rw [bit, BitVec.getLsbD_rotateRight]
  cases below : decide (i < 32 - r % 32)
  case true =>
    rw [decide_eq_true_eq] at below
    rw [cond_true, show (i + r) % 32 = r % 32 + i by omega]
  case false =>
    rw [decide_eq_false_iff_not] at below
    rw [cond_false, decide_eq_true h, Bool.true_and, show (i + r) % 32 = i - (32 - r % 32) by omega]

/-- Settles O15: without rotation the value as it stands, otherwise `rotateRight` bit by bit. -/
theorem immediateOperand : Obligations.ImmediateOperand := by
  intro rotate imm8 cin
  by_cases h : rotate = 0#4
  · subst h
    refine ⟨fun i hi => ?_, rfl⟩
    rw [BitVec.toNat_ofNat, Nat.zero_mod, Nat.mul_zero, Nat.add_zero, Nat.mod_eq_of_lt hi]
    rfl
  · simp only [immOperand, if_neg h, and_true]
    exact fun i hi => bit_rotateRight _ _ hi

/-! ## The flags of a subtraction (R118) -/

theorem bit_31_eq_decide (x : Word) : bit x 31 = decide (2 ^ 31 ≤ x.toNat) :=
  (BitVec.msb_eq_getLsbD_last x).symm.trans (BitVec.msb_eq_decide x)

/-- Bit 31 is the sign. -/
theorem toInt_of_nonneg {x : Word} (h : bit x 31 = false) : x.toNat < 2 ^ 31 ∧ x.toInt = x.toNat := by
  rw [bit_31_eq_decide, decide_eq_false_iff_not] at h
  rw [BitVec.toInt_eq_toNat_cond]
  omega

theorem toInt_of_neg {x : Word} (h : bit x 31 = true) : 2 ^ 31 ≤ x.toNat ∧ x.toInt = x.toNat - 2 ^ 32 := by
  rw [bit_31_eq_decide, decide_eq_true_eq] at h
  rw [BitVec.toInt_eq_toNat_cond]
  omega

section
variable (a b : Word)

theorem subtract_result : (addWithCarry a (~~~b) true).result = a - b := by
  apply BitVec.eq_of_toNat_eq
  simp only [addWithCarry, BitVec.toNat_ofNat, BitVec.toNat_not, BitVec.toNat_sub, Bool.toNat_true]
  have := b.isLt
  congr 1
  omega

theorem subtract_zero : (addWithCarry a (~~~b) true).z = decide (a = b) := by
  change ((addWithCarry a (~~~b) true).result == 0#32) = _
  rw [subtract_result, Bool.eq_iff_iff, beq_iff_eq, decide_eq_true_eq, BitVec.sub_eq_iff_eq_add, BitVec.zero_add]

theorem subtract_carry : (addWithCarry a (~~~b) true).c = decide (b.toNat ≤ a.toNat) := by
  simp only [addWithCarry, BitVec.toNat_not, Bool.toNat_true, decide_eq_decide]
  have := b.isLt
  omega

/-- Operands of one sign do not overflow: bit 31 of the difference is its sign. -/
theorem bit_31_sub_of_same_sign (h : bit a 31 = bit b 31) : bit (a - b) 31 = !decide (b.toInt ≤ a.toInt) := by
  rw [bit_31_eq_decide, bit_31_eq_decide, decide_eq_decide] at h
  rw [bit_31_eq_decide, ← decide_not, decide_eq_decide, BitVec.toNat_sub, BitVec.toInt_eq_toNat_cond,
    BitVec.toInt_eq_toNat_cond]
  have := a.isLt
  have := b.isLt
  omega

/-- N and V of a subtraction agree exactly where the second operand is not greater as a signed number: with
operands of two signs an overflow is what makes N wrong. -/
theorem subtract_negative_eq_overflow :
    ((addWithCarry a (~~~b) true).n == (addWithCarry a (~~~b) true).v) = decide (b.toInt ≤ a.toInt) := by
  have hnot : bit (~~~b) 31 = !bit b 31 := by simp
  have hn : (addWithCarry a (~~~b) true).n = bit (a - b) 31 := congrArg (bit · 31) (subtract_result a b)
  have hv : (addWithCarry a (~~~b) true).v = ((bit a 31 == !bit b 31) && (bit (a - b) 31 != bit a 31)) := by
    rw [← hnot, ← subtract_result]
    rfl
  rw [hn, hv]
  cases ha : bit a 31 <;> cases hb : bit b 31
  case false.true =>
    obtain ⟨-, ia⟩ := toInt_of_nonneg ha
    obtain ⟨-, ib⟩ := toInt_of_neg hb
    have := b.isLt
    have le : b.toInt ≤ a.toInt := by omega
    rw [decide_eq_true le]
    cases bit (a - b) 31 <;> rfl
  case true.false =>
    obtain ⟨-, ia⟩ := toInt_of_neg ha
    obtain ⟨-, ib⟩ := toInt_of_nonneg hb
    have := a.isLt
    have lt : ¬ b.toInt ≤ a.toInt := by omega
    rw [decide_eq_false lt]
    cases bit (a - b) 31 <;> rfl
  case false.false | true.true =>
    rw [bit_31_sub_of_same_sign a b (ha.trans hb.symm)]
    cases decide (b.toInt ≤ a.toInt) <;> rfl

end

/-! ## The conditions after a compare (R72, R136) -/

/-- The next state of a CMP that sets the flags. -/
theorem exec_cmp {c : Cond} {rn rd : Reg} {op2 : Op2} {s : State} (hc : condPassed c s.psr = true) (hd : rd ≠ 15#4) :
    let r := addWithCarry (regOrPc (aheadOf op2) 0 rn s) (~~~(evalOp2 op2 s).value) true
    exec (.cmp c true rn rd op2) s = .next (retire (advance { s with psr := s.psr.setFlags r.n r.z r.c r.v })) := by
  simp only [exec, execCmp, dataProcessing, conditional_pass hc, if_neg hd, Bool.false_eq_true, if_false, if_true, finish]

theorem decide_le_and_ne {α β : Type} [DecidableEq α] [LinearOrder β] (f : α → β) (hf : f.Injective) (a b : α) :
    (decide (f b ≤ f a) && !decide (a = b)) = decide (f b < f a) := by
  rw [← decide_not, ← Bool.decide_and, decide_eq_decide, lt_iff_le_and_ne, Ne, hf.eq_iff, eq_comm (a := a)]

/-- Settles O8: Z, C and N = V of the subtraction as comparisons, and the other conditions from these three. -/
theorem compareConditions : Obligations.CompareConditions := by
  intro c rn rd op2 s t hc hd ht a b
  rw [exec_cmp hc hd] at ht
  cases ht
  have hz := subtract_zero a b
  have hcarry := subtract_carry a b
  have hsign := subtract_negative_eq_overflow a b
  have unsigned := decide_le_and_ne BitVec.toNat (fun _ _ => BitVec.eq_of_toNat_eq) a b
  have signed := decide_le_and_ne BitVec.toInt (fun _ _ => BitVec.eq_of_toInt_eq) a b
  rw [← hz, ← hcarry] at unsigned
  rw [← hz, ← hsign, Bool.and_comm] at signed
  rw [← hz, ← hcarry, ← hsign, ← unsigned, ← signed]
  simp only [condPassed, retire_psr, advance_psr, Psr.setFlags, Bool.not_and, Bool.not_not, bne]
  exact ⟨⟨rfl, rfl⟩, ⟨rfl, rfl⟩, ⟨rfl, rfl⟩, ⟨rfl, rfl⟩, ⟨rfl, rfl⟩⟩

/-! ## The stops the spec names (R90, R203, R279) -/

section
variable {c : Cond} {s : State} (hc : condPassed c s.psr = true)
include hc

theorem exec_mulSpace (hi : BitVec 16) (mid : BitVec 2) (lo : BitVec 4) :
    exec (.mulSpace c hi mid lo) s = .refused .unallocatedMultiply := by
  simp only [exec, execMulSpace, conditional_pass hc]

theorem exec_ldm_empty (p u sb w : Bool) (rn : Reg) :
    exec (.ldm c p u sb w rn 0#16) s = .refused .emptyRegisterList := by
  simp only [exec, execLdm, conditional_pass hc, if_true]

theorem exec_stm_empty (p u sb w : Bool) (rn : Reg) :
    exec (.stm c p u sb w rn 0#16) s = .refused .emptyRegisterList := by
  simp only [exec, execStm, conditional_pass hc, if_true]

variable (h20 : s.plat.cpu = .cpu020) (hm : s.psr.mode ≠ .user)
include h20 hm

/-- MCR to coprocessor 15 of CPU-020 outside User mode (R271). -/
theorem exec_mcr_cp15 (opc : BitVec 3) (crn rd : Reg) (aux : BitVec 3) (crm : Reg) :
    exec (.mcr c opc crn rd 15#4 aux crm) s =
      if cp15Plain opc aux crm then (writeCp15 crn (regOrR15 12 3 rd s) s).out (fun _ t => finish t) (raise .dataAbort)
      else .refused .cp15Field := by
  have internal : isInternal 15#4 s = true := by simp [isInternal, h20]
  simp only [exec, execMcr, conditional_pass hc, internal, if_true, if_neg hm]
  cases cp15Plain opc aux crm <;> rfl

/-- MRC from coprocessor 15 of CPU-020 outside User mode (R271). -/
theorem exec_mrc_cp15 (opc : BitVec 3) (crn rd : Reg) (aux : BitVec 3) (crm : Reg) :
    exec (.mrc c opc crn rd 15#4 aux crm) s =
      if cp15Plain opc aux crm then (readCp15 crn s).out (fun v t => finishMrc rd v t) (raise .dataAbort)
      else .refused .cp15Field := by
  have internal : isInternal 15#4 s = true := by simp [isInternal, h20]
  simp only [exec, execMrc, conditional_pass hc, internal, if_true, if_neg hm]
  cases cp15Plain opc aux crm <;> rfl

end

theorem cp15Plain_iff {opc aux : BitVec 3} {crm : Reg} :
    cp15Plain opc aux crm = true ↔ opc = 0#3 ∧ aux = 0#3 ∧ crm = 0#4 := by
  simp only [cp15Plain, Bool.and_eq_true, beq_iff_eq, and_assoc]

theorem writeCp15_high {crn : Reg} (h : 6 ≤ crn.toNat) (v : Word) (s : State) :
    writeCp15 crn v s = .refused .cp15Register := by
  obtain ⟨⟨n, hn⟩⟩ := crn
  change 6 ≤ n at h
  interval_cases n <;> rfl

theorem readCp15_high {crn : Reg} (h : 6 ≤ crn.toNat) (s : State) : readCp15 crn s = .refused .cp15Register := by
  obtain ⟨⟨n, hn⟩⟩ := crn
  change 6 ≤ n at h
  interval_cases n <;> rfl

/-- Settles O38: each stop by the first test its meaning makes. -/
theorem specRefusals : Obligations.SpecRefusals := by
  refine ⟨fun c hi mid lo s hc => exec_mulSpace hc hi mid lo,
    fun c p u sb w rn s hc => ⟨exec_ldm_empty hc p u sb w rn, exec_stm_empty hc p u sb w rn⟩, ?_⟩
  intro c opc crn rd aux crm s hc h20 hm mcr mrc plain
  have hmcr : mcr = _ := exec_mcr_cp15 hc h20 hm opc crn rd aux crm
  have hmrc : mrc = _ := exec_mrc_cp15 hc h20 hm opc crn rd aux crm
  refine ⟨fun bad => ?field, fun ok high => ?register, fun ok => ⟨?write, ?read⟩⟩
  case field =>
    have hp : ¬ cp15Plain opc aux crm = true := fun h => bad (cp15Plain_iff.1 h)
    rw [hmcr, hmrc, if_neg hp, if_neg hp]
    exact ⟨rfl, rfl⟩
  case register =>
    rw [hmcr, hmrc, if_pos (cp15Plain_iff.2 ok), if_pos (cp15Plain_iff.2 ok), writeCp15_high high, readCp15_high high]
    exact ⟨rfl, rfl⟩
  case write =>
    intro zero
    rw [hmcr, if_pos (cp15Plain_iff.2 ok), zero]
    rfl
  case read =>
    intro one
    rw [hmrc, if_pos (cp15Plain_iff.2 ok), one]
    rfl

end Sys2Proof.Machine
end

section
/-! PROOFS. B and BL (40_branch.md R101, R102): the target as arithmetic on addresses, and the link word by its fields. -/

namespace Sys2Proof.Machine

/-! ## The target (R101) -/

/-- The target as a word address: the offset counts as its unsigned value modulo 2^24. -/
theorem toNat_branchTarget (off : BitVec 24) (s : State) :
    (branchTarget off s).toNat = (s.pc.toNat + 2 + off.toNat) % 2 ^ 24 := by
  rw [branchTarget, pcAhead, BitVec.toNat_add, BitVec.toNat_add, Nat.mod_add_mod]
  rfl

/-- The target as a byte address: the signed offset, times four, from two words ahead, modulo 2^26. -/
theorem branchTarget_address (off : BitVec 24) (s : State) :
    ((branchTarget off s).toNat : Int) * 4 = ((s.pc.toNat : Int) * 4 + 8 + 4 * off.toInt) % 2 ^ 26 := by
  rw [toNat_branchTarget, BitVec.toInt_eq_toNat_cond]
  omega

/-- The offset that the assembler computes for a destination leads there. -/
theorem branchTarget_of_assembled {off : BitVec 24} {s : State} {d : PcWord}
    (h : (off.toNat : Int) = (((d.toNat : Int) * 4 - (s.pc.toNat : Int) * 4 - 8) / 4) % 2 ^ 24) :
    branchTarget off s = d := by
  apply BitVec.eq_of_toNat_eq
  rw [toNat_branchTarget]
  have := d.isLt
  omega

/-! ## The link word (R25, R102) -/

/-- R15 as one word, field by field. -/
theorem packR15_eq_iff {p : Psr} {pc : PcWord} {w : Word} :
    packR15 p pc = w ↔ bit w 31 = p.n ∧ bit w 30 = p.z ∧ bit w 29 = p.c ∧ bit w 28 = p.v ∧ bit w 27 = p.i ∧
      bit w 26 = p.f ∧ field w 2 24 = pc ∧ field w 0 2 = modeBits p.mode := by
  rw [packR15]
  simp (disch := decide) only [append_eq_iff, field_field, Nat.reduceAdd, and_assoc]
  simp only [eq_comm (b := field w _ _), field_one_eq]

/-- Settles O19: the target as for B, the link word by its fields, and one physical register written. -/
theorem branchLink : Obligations.BranchLink := by
  intro c off s hc
  refine ⟨_, exec_bl_passed hc off, branchTarget_address off s, ?link, ?others, rfl, rfl⟩
  case link =>
    simp only [retire_regs, jump_regs, getPhys_setPhys_same]
    obtain ⟨hn, hz, hcarry, hv, hi, hf, hpc, hmode⟩ := packR15_eq_iff.1 (rfl : packR15 s.psr (s.pc + 1) = r15Val 4 s)
    exact ⟨hpc, hmode, hn, hz, hcarry, hv, hi, hf⟩
  case others => exact fun q hq => getPhys_setPhys_ne s.regs _ hq

end Sys2Proof.Machine

namespace Sys2Proof

/-- Settles O18: the target's address for B and BL, and the assembled offset's target for every destination. It stands
outside `Machine`, where its name is that of the definition it is about. -/
theorem branchTarget : Obligations.BranchTarget := by
  refine ⟨fun c off s hc => ⟨?b, ?bl⟩, fun s d off hc h => ?reach⟩
  case b => exact ⟨_, Machine.exec_b_passed hc off, Machine.branchTarget_address off s, rfl, rfl, rfl⟩
  case bl => exact ⟨_, Machine.exec_bl_passed hc off, Machine.branchTarget_address off s⟩
  case reach => exact ⟨_, Machine.exec_b_passed hc off, Machine.branchTarget_of_assembled h⟩

end Sys2Proof
end

section
/-! PROOFS. The barrel shifter (41_data_processing.md R112-R114): both forms of the amount lead to one shift by a number of
places, and each shift is arithmetic on the value. -/

namespace Sys2Proof.Machine

/-! ## A shift by a number of places -/

/-- A shift by `n` places, `n` not 0, with the last bit shifted out: what R112, R113 and R114 have in common. -/
def shiftBy (ty : ShiftType) (n : Nat) (v : Word) : Shifted :=
  match ty with
  | .lsl => ⟨v <<< n, decide (n ≤ 32) && bit v (32 - n)⟩
  | .lsr => ⟨v >>> n, bit v (n - 1)⟩
  | .asr => ⟨v.sshiftRight n, bit v (min (n - 1) 31)⟩
  | .ror => ⟨v.rotateRight n, bit v ((n - 1) % 32)⟩

section
variable (v : Word) (cin : Bool)

/-- From 31 places on a signed shift leaves nothing but the sign. -/
theorem sshiftRight_of_le {n : Nat} (h : 31 ≤ n) : v.sshiftRight n = v.sshiftRight 31 := by
  have sign {m i : Nat} (hm : 31 ≤ m) (hi : i < 32) : (v.sshiftRight m).getLsbD i = bit v 31 := by
    rw [BitVec.getLsbD_sshiftRight, decide_eq_false (Nat.not_le.2 hi), Bool.not_false, Bool.true_and]
    split
    · rw [show m + i = 31 by omega]
    · exact BitVec.msb_eq_getLsbD_last v
  exact BitVec.eq_of_getLsbD_eq fun i hi => (sign h hi).trans (sign le_rfl hi).symm

/-- A rotation by a number of places is one by that number modulo 32. -/
theorem rotateRight_congr {m n : Nat} (h : m % 32 = n % 32) : v.rotateRight m = v.rotateRight n := by
  rw [← BitVec.rotateRight_mod_eq_rotateRight, h, BitVec.rotateRight_mod_eq_rotateRight]

theorem rotateRight_of_mod_eq_zero {n : Nat} (h : n % 32 = 0) : v.rotateRight n = v := by
  refine BitVec.eq_of_getLsbD_eq fun i hi => ?_
  rw [rotateRight_congr v (n := 0) h]
  exact (bit_rotateRight v 0 hi).trans (by rw [Nat.add_zero, Nat.mod_eq_of_lt hi])

/-! ## Both forms of the amount (R112, R113, R114) -/

/-- Below 32 places the last bit shifted out is always a bit of the value. -/
theorem shiftBy_carry_below {n : Nat} (h : n < 32) :
    (shiftBy .lsl n v).carry = bit v (32 - n) ∧ (shiftBy .asr n v).carry = bit v (n - 1) ∧
      (shiftBy .ror n v).carry = bit v (n - 1) := by
  simp only [shiftBy, decide_eq_true (Nat.le_of_lt h), Bool.true_and, Nat.min_eq_left (show n - 1 ≤ 31 by omega),
    Nat.mod_eq_of_lt (show n - 1 < 32 by omega), and_self]

theorem shiftImm_of_ne_zero (ty : ShiftType) {amt : BitVec 5} (h : amt.toNat ≠ 0) :
    shiftImm ty amt v cin = shiftBy ty amt.toNat v := by
  obtain ⟨left, signed, rotated⟩ := shiftBy_carry_below v amt.isLt
  cases ty <;> simp only [shiftImm, if_neg h]
  case lsl => rw [← left]; rfl
  case lsr => rfl
  case asr => rw [← signed]; rfl
  case ror => rw [← rotated]; rfl

/-- Amount 0 in the instruction: LSL 0, LSR 32, ASR 32, RRX (R112). -/
theorem shiftImm_zero {amt : BitVec 5} (h : amt.toNat = 0) :
    shiftImm .lsl amt v cin = ⟨v, cin⟩ ∧ shiftImm .lsr amt v cin = shiftBy .lsr 32 v ∧
      shiftImm .asr amt v cin = shiftBy .asr 32 v ∧ shiftImm .ror amt v cin = ⟨bit1 cin ++ field v 1 31, bit v 0⟩ := by
  refine ⟨if_pos h, (if_pos h).trans ?lsr, (if_pos h).trans ?asr, if_pos h⟩
  case lsr => rw [shiftBy, BitVec.ushiftRight_eq_zero le_rfl]
  case asr => rw [shiftBy, sshiftRight_of_le v (n := 32) (by decide)]; rfl

/-- An amount below 32 is the amount of a shift in the instruction (R113). -/
theorem shiftReg_below (ty : ShiftType) {amount : Byte} (h : amount.toNat ≠ 0) (below : amount.toNat < 32) :
    shiftReg ty amount v cin = shiftBy ty amount.toNat v := by
  have value : (BitVec.ofNat 5 amount.toNat).toNat = amount.toNat := Nat.mod_eq_of_lt below
  unfold shiftReg
  rw [if_neg h, if_pos below, shiftImm_of_ne_zero v cin ty (value.trans_ne h), value]

/-- Amounts from 32 up (R113, R114). -/
theorem shiftReg_above (ty : ShiftType) {amount : Byte} (above : 32 ≤ amount.toNat) :
    shiftReg ty amount v cin = shiftBy ty amount.toNat v := by
  unfold shiftReg
  dsimp only
  rw [if_neg (by omega), if_neg (by omega)]
  generalize amount.toNat = n at above
  cases ty <;> dsimp only [shiftBy]
  case lsl =>
    rw [BitVec.shiftLeft_eq_zero above]
    split
    · subst n; rfl
    · rw [decide_eq_false (by omega)]; rfl
  case lsr =>
    rw [BitVec.ushiftRight_eq_zero above]
    split
    · subst n; rfl
    · rw [bit, BitVec.getLsbD_of_ge v _ (by omega)]
  case asr => rw [sshiftRight_of_le v (n := n) (by omega), Nat.min_eq_right (by omega)]
  case ror =>
    split
    · rw [rotateRight_of_mod_eq_zero v (by omega), show (n - 1) % 32 = 31 by omega]
    · have value : (BitVec.ofNat 5 ((n - 1) % 32 + 1)).toNat = (n - 1) % 32 + 1 := Nat.mod_eq_of_lt (by omega)
      rw [shiftImm_of_ne_zero v cin .ror (by omega), value, shiftBy, Nat.add_sub_cancel, Nat.mod_mod,
        rotateRight_congr v (show ((n - 1) % 32 + 1) % 32 = n % 32 by omega)]

theorem shiftReg_of_ne_zero (ty : ShiftType) {amount : Byte} (h : amount.toNat ≠ 0) :
    shiftReg ty amount v cin = shiftBy ty amount.toNat v :=
  (Nat.lt_or_ge amount.toNat 32).elim (shiftReg_below v cin ty h) (shiftReg_above v cin ty)

/-! ## A shift as arithmetic -/

theorem shiftBy_lsl_value (n : Nat) : (shiftBy .lsl n v).value.toNat = v.toNat * 2 ^ n % 2 ^ 32 := by
  rw [shiftBy, BitVec.toNat_shiftLeft, Nat.shiftLeft_eq]

theorem shiftBy_lsr_value (n : Nat) : (shiftBy .lsr n v).value.toNat = v.toNat / 2 ^ n := by
  rw [shiftBy, BitVec.toNat_ushiftRight, Nat.shiftRight_eq_div_pow]

theorem shiftBy_asr_value (n : Nat) : (shiftBy .asr n v).value.toInt = v.toInt / 2 ^ n := by
  rw [shiftBy, BitVec.toInt_sshiftRight, Int.shiftRight_eq_div_pow, Int.natCast_pow]
  rfl

theorem shiftBy_ror_value (n : Nat) {i : Nat} (hi : i < 32) : bit (shiftBy .ror n v).value i = bit v ((i + n) % 32) :=
  bit_rotateRight v n hi

/-- The rotation through the carry, as a number. -/
theorem toNat_rrx : (bit1 cin ++ field v 1 31).toNat = cin.toNat * 2 ^ 31 + v.toNat / 2 := by
  rw [BitVec.toNat_append, ← Nat.shiftLeft_add_eq_or_of_lt (field v 1 31).isLt, Nat.shiftLeft_eq, BitVec.toNat_ofBool,
    BitVec.extractLsb'_toNat, Nat.shiftRight_eq_div_pow, Nat.mod_eq_of_lt (by omega)]

end

/-! ## The statements -/

/-- Settles O14: amount 0 leaves everything, every other amount is `shiftBy`. -/
theorem shiftByRegister : Obligations.ShiftByRegister := by
  intro amount v cin n l r a o
  by_cases h : n = 0
  · have zero (ty : ShiftType) : shiftReg ty amount v cin = ⟨v, cin⟩ := if_pos h
    simp only [l, r, a, o, zero, h, if_true, pow_zero, mul_one, Nat.div_one, Int.ediv_one, Nat.add_zero, and_true,
      Nat.mod_eq_of_lt v.isLt, true_and]
    exact fun i hi => by rw [Nat.mod_eq_of_lt hi]
  · have shifted (ty : ShiftType) : shiftReg ty amount v cin = shiftBy ty n v := shiftReg_of_ne_zero v cin ty h
    simp only [l, r, a, o, shifted, if_neg h]
    exact ⟨⟨shiftBy_lsl_value v n, rfl⟩, ⟨shiftBy_lsr_value v n, rfl⟩, ⟨shiftBy_asr_value v n, rfl⟩,
      fun i hi => shiftBy_ror_value v n hi, rfl⟩

/-- Settles O13: amount 0 by `shiftImm_zero`, every other amount is `shiftBy`. -/
theorem shiftByConstant : Obligations.ShiftByConstant := by
  intro amt v cin k k32 l r a o
  by_cases h : k = 0
  · obtain ⟨hl, hr, ha, ho⟩ := shiftImm_zero v cin h
    simp only [l, r, a, o, hl, hr, ha, ho, k32, h, if_true, pow_zero, mul_one, Nat.mod_eq_of_lt v.isLt, true_and]
    exact ⟨⟨shiftBy_lsr_value v 32, rfl⟩, ⟨shiftBy_asr_value v 32, rfl⟩, fun hk => absurd rfl hk,
      fun _ => ⟨toNat_rrx v cin, trivial⟩⟩
  · obtain ⟨left, signed, rotated⟩ := shiftBy_carry_below v amt.isLt
    have shifted (ty : ShiftType) : shiftImm ty amt v cin = shiftBy ty k v := shiftImm_of_ne_zero v cin ty h
    simp only [l, r, a, o, k32, shifted, if_neg h]
    exact ⟨⟨shiftBy_lsl_value v k, left⟩, ⟨shiftBy_lsr_value v k, rfl⟩, ⟨shiftBy_asr_value v k, signed⟩,
      fun _ => ⟨fun i hi => shiftBy_ror_value v k hi, rotated⟩, fun hk => absurd hk h⟩

end Sys2Proof.Machine
end

section
/-! PROOFS. The sixteen operations of data processing (41_data_processing.md R111, R117, R118, R124-R141): sums and
differences as exact numbers, and the three ends of the skeleton. -/

namespace Sys2Proof.Machine

/-! ## Add with carry as exact numbers (R118) -/

section
variable (a b : Word) (k : Bool)

/-- Overflow by the signs of operands and result is overflow of the exact signed sum. -/
theorem addWithCarry_overflow : (addWithCarry a b k).v = signedOverflow (a.toInt + b.toInt + k.toNat) := by
  change ((bit a 31 == bit b 31) && (bit (BitVec.ofNat 32 (a.toNat + b.toNat + k.toNat)) 31 != bit a 31)) = _
  rw [Bool.eq_iff_iff]
  simp only [bit_31_eq_decide, Bool.and_eq_true, beq_iff_eq, bne_iff_ne, ne_eq, decide_eq_decide, signedOverflow,
    decide_eq_true_eq, BitVec.toNat_ofNat, BitVec.toInt_eq_toNat_cond]
  have := a.isLt
  have := b.isLt
  have := k.toNat_le
  omega

/-- The sum, with carry and overflow as facts about the exact sums. -/
theorem addWithCarry_sum :
    addWithCarry a b k = logicalOut (a + b + BitVec.ofNat 32 k.toNat) (decide (2 ^ 32 ≤ a.toNat + b.toNat + k.toNat))
      (signedOverflow (a.toInt + b.toInt + k.toNat)) := by
  have result : a + b + BitVec.ofNat 32 k.toNat = BitVec.ofNat 32 (a.toNat + b.toNat + k.toNat) := by
    simp only [BitVec.ofNat_add, BitVec.ofNat_toNat, BitVec.setWidth_eq]
  rw [result, ← addWithCarry_overflow]
  rfl

theorem toInt_not : (~~~b).toInt = -b.toInt - 1 := by
  rw [BitVec.toInt_eq_toNat_cond, BitVec.toInt_eq_toNat_cond, BitVec.toNat_not]
  have := b.isLt
  omega

/-- The difference less the borrow `!k`: no carry is a borrow of the exact difference. -/
theorem addWithCarry_difference :
    addWithCarry a (~~~b) k = logicalOut (a - b - BitVec.ofNat 32 (!k).toNat) (decide (b.toNat + (!k).toNat ≤ a.toNat))
      (signedOverflow (a.toInt - b.toInt - (!k).toNat)) := by
  have borrow : (!k).toNat + k.toNat = 1 := by cases k <;> rfl
  have hb := b.isLt
  rw [addWithCarry_sum]
  congr 1
  · apply BitVec.eq_of_toNat_eq
    simp only [BitVec.toNat_add, BitVec.toNat_sub, BitVec.toNat_not, BitVec.toNat_ofNat]
    omega
  · rw [decide_eq_decide, BitVec.toNat_not]
    omega
  · rw [toInt_not]
    congr 1
    omega

end

/-! ## The ends of the skeleton (R111, R120, R124, R125) -/

section
variable {c : Cond} {s : State} (hc : condPassed c s.psr = true) {alu : Alu} {sb : Bool} {rn : Reg} {op2 : Op2}

/-- What the ALU function of an instruction answers in a state. -/
def aluAnswer (alu : Alu) (rn : Reg) (op2 : Op2) (s : State) : AluOut :=
  alu (regOrPc (aheadOf op2) 0 rn s) (evalOp2 op2 s).value s.psr.c (evalOp2 op2 s).carry s.psr.v

section
variable {rd : Reg} (hd : rd ≠ 15#4) {r : Word} {carry v : Bool} (h : aluAnswer alu rn op2 s = logicalOut r carry v)
include hc hd h

theorem dataProcessing_writes : dataProcessing true alu c sb rn rd op2 s = .next (wrote sb rd r carry v s) := by
  rw [dataProcessing, conditional_pass hc]
  dsimp only
  rw [aluAnswer] at h
  rw [if_neg hd, h]
  cases sb <;> rfl

theorem dataProcessing_tests : dataProcessing false alu c sb rn rd op2 s = .next (tested sb r carry v s) := by
  rw [dataProcessing, conditional_pass hc]
  dsimp only
  rw [aluAnswer] at h
  rw [if_neg hd, h]
  cases sb <;> rfl

end

include hc

/-- A result written to R15. -/
theorem dataProcessing_writes_r15 :
    dataProcessing true alu c sb rn 15#4 op2 s = .next (wrotePc sb (aluAnswer alu rn op2 s).result s) := by
  rw [dataProcessing, conditional_pass hc]
  cases sb <;> rfl

/-- A compare or test with Rd = R15: the P form. -/
theorem dataProcessing_tests_r15 :
    dataProcessing false alu c sb rn 15#4 op2 s =
      if sb then finishPsr (aluAnswer alu rn op2 s).result s else finish s := by
  rw [dataProcessing, conditional_pass hc]
  rfl

end

/-! ## The statements -/

/-- Settles O10: the six operations are sums and differences of `addWithCarry`. -/
theorem arithmeticResult : Obligations.ArithmeticResult := by
  intro c sb rn rd op2 s hc hd a b one less
  have hone : one = s.psr.c.toNat := by cases hcarry : s.psr.c <;> simp [one, hcarry]
  have hless : less = (!s.psr.c).toNat := by cases hcarry : s.psr.c <;> simp [less, hcarry]
  rw [hone, hless]
  dsimp only [exec, execAdd, execAdc, execSub, execSbc, execRsb, execRsc]
  refine ⟨?add, ?adc, ?sub, ?sbc, ?rsb, ?rsc⟩
  case add => exact dataProcessing_writes hc hd ((addWithCarry_sum a b false).trans (by simp))
  case adc => exact dataProcessing_writes hc hd (addWithCarry_sum a b s.psr.c)
  case sub => exact dataProcessing_writes hc hd ((addWithCarry_difference a b true).trans (by simp))
  case sbc => exact dataProcessing_writes hc hd (addWithCarry_difference a b s.psr.c)
  case rsb => exact dataProcessing_writes hc hd ((addWithCarry_difference b a true).trans (by simp))
  case rsc => exact dataProcessing_writes hc hd (addWithCarry_difference b a s.psr.c)

/-- Settles O11: the answers of AND, EOR, SUB and ADD, with no register written. -/
theorem testResult : Obligations.TestResult := by
  intro c sb rn rd op2 s hc hd a b k
  dsimp only [exec, execTst, execTeq, execCmp, execCmn]
  refine ⟨?tst, ?teq, ?cmp, ?cmn⟩
  case tst | teq => exact dataProcessing_tests hc hd rfl
  case cmp => exact dataProcessing_tests hc hd ((addWithCarry_difference a b true).trans (by simp))
  case cmn => exact dataProcessing_tests hc hd ((addWithCarry_sum a b false).trans (by simp))

/-- Settles O9: the answer of each operation is `logicalOut` of its result. -/
theorem logicalResult : Obligations.LogicalResult := by
  intro c sb rn rd op2 s hc hd a b k
  dsimp only [exec, execAnd, execEor, execOrr, execMov, execBic, execMvn]
  refine ⟨?and, ?eor, ?orr, ?mov, ?bic, ?mvn⟩ <;> exact dataProcessing_writes hc hd rfl

/-- Settles O12: the skeleton with Rd = R15, for the operations that write their result and for those that do not. -/
theorem resultToR15 : Obligations.ResultToR15 := by
  intro c rn op2 s hc a b test
  dsimp only [exec, execAnd, execEor, execOrr, execMov, execBic, execMvn, execAdd, execAdc, execSub, execSbc, execRsb,
    execRsc, execTst, execTeq, execCmp, execCmn]
  refine ⟨fun sb => ?result, ?tst, ?teq, ?cmp, ?cmn, ?unset⟩
  case result =>
    refine ⟨?and, ?eor, ?orr, ?bic, ?mov, ?mvn, ?add, ?adc, ?sub, ?sbc, ?rsb, ?rsc⟩ <;>
      exact dataProcessing_writes_r15 hc
  case tst | teq | cmp | cmn => exact dataProcessing_tests_r15 hc
  case unset => rintro i (rfl | rfl | rfl | rfl) <;> exact dataProcessing_tests_r15 hc

end Sys2Proof.Machine
end

section
/-! PROOFS. What the instructions without memory access leave unchanged (41_data_processing.md R119, 42_multiply.md R160,
40_branch.md R100, 47_coprocessor.md R234, 48_undefined.md R250): the state before an instruction writes, how it can end, one
rule for each shared operation, and one lemma for each family of instructions. -/

namespace Sys2Proof.Machine

/-! ## The frame of an instruction -/

/-- The parts of the state outside the processor that no instruction without memory access writes: memory, the support
chips, the platform, the inputs, and the clocks. -/
structure Outside where
  mem : Memory
  memc : Memc
  vidc : Vidc
  ioc : Ioc
  plat : Platform
  inputs : List Boundary
  nirq : Bool
  nfirq : Bool
  held : Option HoldReason

/-- These parts of a state. -/
def outside (s : State) : Outside := ⟨s.mem, s.memc, s.vidc, s.ioc, s.plat, s.inputs, s.nirq, s.nfirq, s.held⟩

theorem outside_fields {s t : State} (h : outside t = outside s) :
    t.mem = s.mem ∧ (∀ a, t.mem.read a = s.mem.read a) ∧ t.memc = s.memc ∧ t.vidc = s.vidc ∧ t.ioc = s.ioc ∧
      t.plat = s.plat ∧ t.inputs = s.inputs ∧ t.nirq = s.nirq ∧ t.nfirq = s.nfirq ∧ t.held = s.held := by
  injection h with mem memc vidc ioc plat inputs nirq nfirq held
  exact ⟨mem, fun a => by rw [mem], memc, vidc, ioc, plat, inputs, nirq, nfirq, held⟩

/-- `t` is `s` but for free values and what passed to and from coprocessors: an instruction begun at `s` has written nothing
yet. -/
structure Untouched (s t : State) : Prop where
  outside : outside t = outside s
  cp15 : t.cp15 = s.cp15
  cache : t.cache = s.cache
  regs : t.regs = s.regs
  psr : t.psr = s.psr
  hazard : t.hazard = s.hazard

/-- `t` differs from `s` at most in what `i` may write: outside a hazard no register but its destination, the PSR only where
`mayWritePsr` says so, and coprocessor 15 and the cache only where `i` is an MCR. -/
structure WrittenBy (i : Instr) (s t : State) : Prop where
  outside : outside t = outside s
  chip : (∀ c opc crn rd cp aux crm, i ≠ .mcr c opc crn rd cp aux crm) → t.cp15 = s.cp15 ∧ t.cache = s.cache
  regs : s.hazard = .none → ∀ q, getPhys t.regs q = getPhys s.regs q ∨
    ∃ r, destination i = some r ∧ r ≠ 15#4 ∧ q = phys s.psr.mode r
  psr : mayWritePsr i = false → t.psr = s.psr

/-- How `i`, begun at `s`, can end: with its own writes only, or in the trap to 0x4 or 0x8 with nothing written before. -/
def FrameEnd (i : Instr) (s t : State) : Prop :=
  WrittenBy i s t ∨ ∃ e x, (e = .undefined ∨ e = .swi) ∧ t = enter e x ∧ Untouched s x

/-- An outcome whose next state, if it has one, is such an end. -/
def EndsFramed (i : Instr) (s : State) (o : Out) : Prop := ∀ t, o = .next t → FrameEnd i s t

/-! ## Before anything is written -/

theorem Untouched.refl (s : State) : Untouched s s := ⟨rfl, rfl, rfl, rfl, rfl, rfl⟩

namespace Untouched

variable {i : Instr} {s t : State}

theorem drawWord (h : Untouched s t) : Untouched s (drawWord t).2 :=
  ⟨h.outside, h.cp15, h.cache, h.regs, h.psr, h.hazard⟩

theorem updateCoproc (h : Untouched s t) (num : Reg) (f : Coproc → Coproc) : Untouched s (updateCoproc num f t) :=
  ⟨h.outside, h.cp15, h.cache, h.regs, h.psr, h.hazard⟩

theorem recordEvent (h : Untouched s t) (num : Reg) (e : CpEvent) : Untouched s (recordEvent num e t) :=
  h.updateCoproc num _

theorem offer (h : Untouched s t) (num : Reg) (w : Word) : Untouched s (offer num w t).2 := by
  unfold Machine.offer
  split
  · exact h
  · exact h.updateCoproc num _

theorem takeSupply (h : Untouched s t) (num : Reg) : Untouched s (takeSupply num t).2 := by
  unfold Machine.takeSupply
  split
  · exact h.updateCoproc num _
  · exact h.drawWord

/-! ## What an instruction writes -/

theorem writtenBy (h : Untouched s t) : WrittenBy i s t :=
  ⟨h.outside, fun _ => ⟨h.cp15, h.cache⟩, fun _ q => .inl (by rw [h.regs]), fun _ => h.psr⟩

/-- A write of a physical register that is, outside a hazard, the destination in the current mode. -/
theorem setPhys (h : Untouched s t) {r : Reg} (hd : destination i = some r) (hr : r ≠ 15#4) {p : PhysReg}
    (hp : s.hazard = .none → p = phys s.psr.mode r) (v : Word) :
    WrittenBy i s { t with regs := setPhys t.regs p v } := by
  refine ⟨h.outside, fun _ => ⟨h.cp15, h.cache⟩, fun plain q => ?_, fun _ => h.psr⟩
  by_cases hq : q = p
  · exact .inr ⟨r, hd, hr, hq.trans (hp plain)⟩
  · exact .inl ((getPhys_setPhys_ne t.regs v hq).trans (by rw [h.regs]))

theorem writeReg (h : Untouched s t) {r : Reg} (hd : destination i = some r) (hr : r ≠ 15#4) (pos : Nat) (v : Word) :
    WrittenBy i s (writeReg pos r v t) :=
  h.setPhys hd hr (fun plain => by rw [writeBank_plain (h.hazard.trans plain), h.psr]) v

end Untouched

namespace WrittenBy

variable {i : Instr} {s t u : State}

/-- A change of none of the parts that the frame speaks of. -/
theorem congr (h : WrittenBy i s t) (ho : Machine.outside u = Machine.outside t) (hcp : u.cp15 = t.cp15)
    (hcache : u.cache = t.cache) (hr : u.regs = t.regs) (hp : u.psr = t.psr) : WrittenBy i s u :=
  ⟨ho.trans h.outside, fun n => hcp ▸ hcache ▸ h.chip n, fun plain => hr ▸ h.regs plain, fun n => hp ▸ h.psr n⟩

theorem withPsr (h : WrittenBy i s t) (may : mayWritePsr i = true) (p : Psr) : WrittenBy i s { t with psr := p } :=
  ⟨h.outside, h.chip, h.regs, fun no => absurd (may.symm.trans no) (by decide)⟩

theorem drawWord (h : WrittenBy i s t) : WrittenBy i s (drawWord t).2 := h.congr rfl rfl rfl rfl rfl

/-- A step that is taken only with S = 1. -/
theorem withS (h : WrittenBy i s t) {sb : Bool} (hs : mayWritePsr i = sb)
    (hu : mayWritePsr i = true → WrittenBy i s u) : WrittenBy i s (if sb then u else t) := by
  split
  case isTrue on => exact hu (hs.trans on)
  case isFalse => exact h

/-- The flags of a multiply (R162, R164). -/
theorem scrambleFlags (h : WrittenBy i s t) (may : mayWritePsr i = true) : WrittenBy i s (scrambleFlags t) :=
  h.drawWord.withPsr may _

theorem multiplyFlags (h : WrittenBy i s t) (may : mayWritePsr i = true) (n z : Bool) :
    WrittenBy i s (multiplyFlags n z t) :=
  h.drawWord.withPsr may _

end WrittenBy

/-! ## Where an instruction ends -/

namespace EndsFramed

variable {i : Instr} {s t : State}

theorem next (h : WrittenBy i s t) : EndsFramed i s (.next t) := by
  rintro u ⟨⟩
  exact .inl h

theorem refused (r : Refusal) : EndsFramed i s (.refused r) := fun _ h => nomatch h

theorem finish (h : WrittenBy i s t) : EndsFramed i s (finish t) := next (h.congr rfl rfl rfl rfl rfl)

theorem finishJump (h : WrittenBy i s t) (target : PcWord) : EndsFramed i s (finishJump target t) :=
  next (h.congr rfl rfl rfl rfl rfl)

theorem returnTo (h : WrittenBy i s t) (may : mayWritePsr i = true) (v : Word) : EndsFramed i s (returnTo v t) :=
  next ((h.withPsr may (writePsr v t.psr)).congr rfl rfl rfl rfl rfl)

theorem finishPsr (h : WrittenBy i s t) (may : mayWritePsr i = true) (v : Word) : EndsFramed i s (finishPsr v t) := by
  have written := h.withPsr may (writePsr v t.psr)
  unfold Machine.finishPsr
  dsimp only
  split <;> exact next (written.congr rfl rfl rfl rfl rfl)

theorem raise (h : Untouched s t) {e : Exc} (he : e = .undefined ∨ e = .swi) : EndsFramed i s (raise e t) := by
  rintro u ⟨⟩
  exact .inr ⟨e, t, he, rfl, h⟩

theorem undefined (h : Untouched s t) : EndsFramed i s (Machine.raise .undefined t) := raise h (.inl rfl)

theorem conditional {run : State → Out} {c : Cond} (hrun : EndsFramed i s (run s)) :
    EndsFramed i s (conditional c s run) := by
  intro t ht
  obtain ⟨-, rfl⟩ | ⟨-, ht⟩ := conditional_cases ht
  · exact finish (Untouched.refl s).writtenBy _ rfl
  · exact hrun t ht

/-- A handshake ends in the undefined-instruction trap, makes no progress, or commits (R226, R227). -/
theorem handshake (h : Untouched s t) (num : Reg) (w : Word) {commit : State → Out}
    (hc : ∀ u, Untouched s u → EndsFramed i s (commit u)) : EndsFramed i s (handshake num w t commit) := by
  have offered := h.offer num w
  unfold Machine.handshake
  revert offered
  obtain ⟨answer, u⟩ := offer num w t
  intro hu
  cases answer with
  | absent => exact undefined hu
  | busy => exact next (hu.writtenBy.congr rfl rfl rfl rfl rfl)
  | ready => exact hc u hu

/-! ## Data processing and multiplies -/

theorem dataProcessing {writes : Bool} {rd : Reg} {sb : Bool} (hd : writes = true → destination i = some rd)
    (hs : mayWritePsr i = sb) (alu : Alu) (c : Cond) (rn : Reg) (op2 : Op2) :
    EndsFramed i s (dataProcessing writes alu c sb rn rd op2 s) := by
  have start := Untouched.refl s
  refine conditional ?_
  dsimp only
  split
  case isTrue =>
    cases writes <;> cases sb
    case true.true => exact returnTo start.writtenBy hs _
    case true.false => exact finishJump start.writtenBy _
    case false.true => exact finishPsr start.writtenBy hs _
    case false.false => exact finish start.writtenBy
  case isFalse hr =>
    have written (v : Word) : WrittenBy i s (if writes then writeReg 3 rd v s else s) := by
      split
      case isTrue on => exact start.writeReg (hd on) hr 3 v
      case isFalse => exact start.writtenBy
    exact finish ((written _).withS hs fun may => (written _).withPsr may _)

section
variable {rd : Reg} {sb : Bool} (hd : destination i = some rd) (hs : mayWritePsr i = sb)
include hd hs

theorem finishMultiply (h : Untouched s t) (hr : rd ≠ 15#4) (result : Word) :
    EndsFramed i s (finishMultiply sb rd result t) :=
  have written := h.writeReg hd hr 3 result
  finish (written.withS hs fun may => written.multiplyFlags may _ _)

theorem execMul (c : Cond) (rn rs rm : Reg) : EndsFramed i s (execMul c sb rd rn rs rm s) := by
  have start := Untouched.refl s
  refine conditional ?_
  dsimp only
  split
  case isTrue => exact finish (start.writtenBy.withS hs start.writtenBy.scrambleFlags)
  case isFalse hr => split <;> exact finishMultiply hd hs start hr _

theorem execMla (c : Cond) (rn rs rm : Reg) : EndsFramed i s (execMla c sb rd rn rs rm s) := by
  have start := Untouched.refl s
  refine conditional ?_
  dsimp only
  split
  case isTrue => exact finish (start.writtenBy.withS hs start.writtenBy.scrambleFlags)
  case isFalse hr =>
    split
    · have written := start.drawWord.drawWord.writeReg hd hr 3 (Machine.drawWord s).1
      exact finish (written.withS hs fun may => written.multiplyFlags may _ _)
    · exact finishMultiply hd hs start hr _

end

/-! ## Branches and SWI -/

theorem execBl (hd : destination i = some 14#4) (c : Cond) (off : BitVec 24) : EndsFramed i s (execBl c off s) :=
  conditional (finishJump ((Untouched.refl s).setPhys hd (by decide) (fun _ => rfl) _) _)

theorem execSwi (c : Cond) (comment : BitVec 24) : EndsFramed i s (execSwi c comment s) := by
  refine conditional ?_
  split
  · exact undefined (.refl s)
  · exact raise (.refl s) (.inr rfl)

/-! ## Coprocessor instructions -/

theorem execCdo (c : Cond) (opc : BitVec 4) (crn crd cp : Reg) (aux : BitVec 3) (crm : Reg) :
    EndsFramed i s (execCdo c opc crn crd cp aux crm s) := by
  refine conditional ?_
  split
  · exact undefined (.refl s)
  · exact handshake (.refl s) cp _ fun u hu => next (hu.writtenBy.congr rfl rfl rfl rfl rfl)

end EndsFramed

/-- A write of a coprocessor 15 register is refused, or changes coprocessor 15 and the cache only (R273-R278). -/
theorem writeCp15_cases (crn : Reg) (v : Word) (s : State) :
    (∃ cp15 cache, writeCp15 crn v s = .done () { s with cp15 := cp15, cache := cache }) ∨
      ∃ r, writeCp15 crn v s = .refused r := by
  unfold writeCp15
  split
  case h_1 | h_2 | h_3 | h_4 | h_5 => exact .inl ⟨_, _, rfl⟩
  case h_6 | h_7 => exact .inr ⟨_, rfl⟩

/-- A read of a coprocessor 15 register is refused or changes nothing (R272-R278). -/
theorem readCp15_cases (crn : Reg) (s : State) :
    (∃ v, readCp15 crn s = .done v s) ∨ ∃ r, readCp15 crn s = .refused r := by
  unfold readCp15
  split
  case h_1 | h_2 | h_3 | h_4 | h_5 => exact .inl ⟨_, rfl⟩
  case h_6 | h_7 => exact .inr ⟨_, rfl⟩

namespace EndsFramed

variable {i : Instr} {s t : State}

theorem execMcr (c : Cond) (opc : BitVec 3) (crn rd cp : Reg) (aux : BitVec 3) (crm : Reg) :
    EndsFramed (.mcr c opc crn rd cp aux crm) s (execMcr c opc crn rd cp aux crm s) := by
  have start := Untouched.refl s
  refine conditional ?_
  dsimp only
  split
  · split
    · exact undefined start
    · split
      · exact refused _
      · obtain ⟨cp15, cache, done⟩ | ⟨r, no⟩ := writeCp15_cases crn (regOrR15 12 3 rd s) s
        · rw [done]
          exact finish ⟨rfl, fun other => absurd rfl (other c opc crn rd cp aux crm), start.writtenBy.regs, fun _ => rfl⟩
        · rw [no]
          exact refused r
  · exact handshake start cp _ fun u hu => finish (hu.recordEvent cp _).writtenBy

theorem finishMrc (h : Untouched s t) {rd : Reg} (hd : destination i = some rd) (hp : mayWritePsr i = (rd == 15#4))
    (v : Word) : EndsFramed i s (finishMrc rd v t) := by
  unfold Machine.finishMrc
  split
  case isTrue hr => exact finish (h.writtenBy.withPsr (hp.trans (beq_iff_eq.2 hr)) _)
  case isFalse hr => exact finish (h.writeReg hd hr 3 v)

theorem execMrc {rd : Reg} (hd : destination i = some rd) (hp : mayWritePsr i = (rd == 15#4)) (c : Cond) (opc : BitVec 3)
    (crn cp : Reg) (aux : BitVec 3) (crm : Reg) : EndsFramed i s (execMrc c opc crn rd cp aux crm s) := by
  have start := Untouched.refl s
  refine conditional ?_
  split
  · split
    · exact undefined start
    · split
      · exact refused _
      · obtain ⟨v, done⟩ | ⟨r, no⟩ := readCp15_cases crn s
        · rw [done]
          exact finishMrc start hd hp v
        · rw [no]
          exact refused r
  · exact handshake start cp _ fun u hu => finishMrc ((hu.takeSupply cp).recordEvent cp _) hd hp _

end EndsFramed

/-! ## Every instruction without memory access -/

/-- Everything such an instruction can do. -/
theorem exec_endsFramed {i : Instr} (hi : accessesMemory i = false) (s : State) : EndsFramed i s (exec i s) := by
  have start := Untouched.refl s
  cases i <;> dsimp only [exec]
  case and | eor | sub | rsb | add | adc | sbc | rsc | orr | mov | bic | mvn =>
    exact EndsFramed.dataProcessing (fun _ => rfl) rfl _ _ _ _
  case tst | teq | cmp | cmn => exact EndsFramed.dataProcessing (writes := false) nofun rfl _ _ _ _
  case mul => exact EndsFramed.execMul rfl rfl _ _ _ _
  case mla => exact EndsFramed.execMla rfl rfl _ _ _ _
  case mulSpace => exact EndsFramed.conditional (EndsFramed.refused _)
  case swp | swpb | ldr | ldrb | str | strb | stm | ldm | stc | ldc => exact nomatch hi
  case b => exact EndsFramed.conditional (EndsFramed.finishJump start.writtenBy _)
  case bl => exact EndsFramed.execBl rfl _ _
  case cdo => exact EndsFramed.execCdo _ _ _ _ _ _ _
  case mcr => exact EndsFramed.execMcr _ _ _ _ _ _ _
  case mrc => exact EndsFramed.execMrc rfl rfl _ _ _ _ _ _
  case swi => exact EndsFramed.execSwi _ _
  case undA | undB => exact EndsFramed.conditional (EndsFramed.undefined start)

/-- The trap to 0x4 or 0x8 from a state where nothing is written yet: R14_svc, I and the mode change (R451). -/
theorem enter_trap {e : Exc} {s x : State} (he : e = .undefined ∨ e = .swi) (h : Untouched s x) :
    (enter e x).psr = { s.psr with i := true, mode := .svc } ∧ ((enter e x).pc = 1#24 ∨ (enter e x).pc = 2#24) ∧
      ∀ q, getPhys (enter e x).regs q = getPhys s.regs q ∨ q = .svc 1 := by
  have link : phys e.mode 14#4 = .svc 1 := by obtain rfl | rfl := he <;> rfl
  refine ⟨?psr, he.imp (congrArg Exc.vector) (congrArg Exc.vector), fun q => ?regs⟩
  case psr =>
    rw [enter_psr, h.psr]
    obtain rfl | rfl := he <;> simp [Exc.setsF, Exc.mode]
  case regs =>
    by_cases hq : q = .svc 1
    · exact .inr hq
    · exact .inl ((enter_other e x (link ▸ hq)).trans (by rw [h.regs]))

/-- Settles O31: an end with the instruction's own writes, or the trap. -/
theorem registerFrame : Obligations.RegisterFrame := by
  intro i s t hi ht
  obtain written | ⟨e, x, he, rfl, hx⟩ := exec_endsFramed hi s t ht
  case inl =>
    exact ⟨outside_fields written.outside, written.chip, fun plain q => (written.regs plain q).imp_right .inl,
      fun no => .inl (written.psr no)⟩
  case inr =>
    obtain ⟨psr, pc, regs⟩ := enter_trap he hx
    have mode : (enter e x).psr.mode = .svc := congrArg Psr.mode psr
    exact ⟨outside_fields hx.outside, fun _ => ⟨hx.cp15, hx.cache⟩,
      fun _ q => (regs q).imp_right fun hq => .inr ⟨hq, mode, pc⟩, fun _ => .inr ⟨psr, pc⟩⟩

end Sys2Proof.Machine
end

section
/-! PROOFS. The next states of MUL and MLA (42_multiply.md R160-R164): the end of a multiply by the value it writes, and
which end each choice of Rd takes. -/

namespace Sys2Proof.Machine

/-! ## The ends of a multiply -/

section
variable (sb : Bool) (s : State)

/-- A multiply that writes `r` to Rd, with N and Z given, once the free values stand at `f`: only C and the next draw are
open (R164, U14). -/
theorem finish_multiplyFlags_writeReg (f : Nat) (rd : Reg) (r : Word) (n z : Bool) :
    let t := writeReg 3 rd r { s with free := f }
    ∃ k f', finish (if sb then multiplyFlags n z t else t) =
      .next { retire (advance { writeReg 3 rd r s with
        psr := if sb then s.psr.setFlags n z k s.psr.v else s.psr }) with free := f' } := by
  cases sb
  case false => exact ⟨false, _, rfl⟩
  case true => exact ⟨_, _, rfl⟩

/-- A multiply with Rd = R15: no register is written, and all four flags are open (R162, U13, D16). -/
theorem finish_scrambleFlags :
    ∃ n z k v f, finish (if sb then scrambleFlags s else s) =
      .next { retire (advance { s with
        psr := if sb then s.psr.setFlags n z k v else s.psr }) with free := f } := by
  cases sb
  case false => exact ⟨false, false, false, false, _, rfl⟩
  case true => exact ⟨_, _, _, _, _, rfl⟩

/-- A multiply whose N and Z are those of its result (R160, R161). -/
theorem finishMultiply_wrote (rd : Reg) (r : Word) :
    ∃ k f, finishMultiply sb rd r s = .next { wrote sb rd r k s.psr.v s with free := f } :=
  finish_multiplyFlags_writeReg sb s s.free rd r (bit r 31) (r == 0#32)

end

/-! ## Which end each case of Rd takes (R160-R162) -/

section
variable {c : Cond} {s : State} (hc : condPassed c s.psr = true) {sb : Bool} {rd rn rs rm : Reg}
include hc

theorem exec_mul_r15 : exec (.mul c sb 15#4 rn rs rm) s = finish (if sb then scrambleFlags s else s) := by
  simp only [exec, execMul, conditional_pass hc, if_true]

theorem exec_mla_r15 : exec (.mla c sb 15#4 rn rs rm) s = finish (if sb then scrambleFlags s else s) := by
  simp only [exec, execMla, conditional_pass hc, if_true]

variable (hd : rd ≠ 15#4)
include hd

theorem exec_mul_same : exec (.mul c sb rd rn rs rd) s = finishMultiply sb rd 0#32 s := by
  simp only [exec, execMul, conditional_pass hc, if_neg hd, if_true]

/-- MLA with Rd = Rm draws the result, then the word whose low bits are N and Z (U12). -/
theorem exec_mla_same :
    exec (.mla c sb rd rn rs rd) s =
      let x := (drawWord (drawWord s).2).1
      let t := writeReg 3 rd (drawWord s).1 (drawWord (drawWord s).2).2
      finish (if sb then multiplyFlags (bit x 0) (bit x 1) t else t) := by
  simp only [exec, execMla, conditional_pass hc, if_neg hd, if_true]

variable (hm : rd ≠ rm)
include hm

theorem exec_mul_distinct :
    exec (.mul c sb rd rn rs rm) s = finishMultiply sb rd (regOrR15 12 1 rm s * regOrPc 8 2 rs s) s := by
  simp only [exec, execMul, conditional_pass hc, if_neg hd, if_neg hm]

theorem exec_mla_distinct :
    exec (.mla c sb rd rn rs rm) s =
      finishMultiply sb rd (regOrR15 12 1 rm s * regOrPc 8 2 rs s + regOrR15 8 0 rn s) s := by
  simp only [exec, execMla, conditional_pass hc, if_neg hd, if_neg hm]

end

/-- Settles O17: the case of Rd picks the end of the multiply. -/
theorem multiplyResult : Obligations.MultiplyResult := by
  intro c sb rd rn rs rm s hc vm vs vn
  refine ⟨fun hd hm => ⟨?mul, ?mla⟩, fun hd hm => ?same, fun hd => ?r15⟩
  case mul =>
    rw [exec_mul_distinct hc hd hm]
    exact finishMultiply_wrote sb s rd (vm * vs)
  case mla =>
    rw [exec_mla_distinct hc hd hm]
    exact finishMultiply_wrote sb s rd (vm * vs + vn)
  case same =>
    subst hm
    refine ⟨?mul, fun _ => ?mla⟩
    case mul =>
      rw [exec_mul_same hc hd]
      exact finishMultiply_wrote sb s rd 0#32
    case mla =>
      rw [exec_mla_same hc hd]
      exact ⟨_, _, _, finish_multiplyFlags_writeReg sb s (s.free + 2) rd _ _ _⟩
  case r15 =>
    subst hd
    rintro i (rfl | rfl)
    · rw [exec_mul_r15 hc]
      exact finish_scrambleFlags sb s
    · rw [exec_mla_r15 hc]
      exact finish_scrambleFlags sb s

end Sys2Proof.Machine
end

section
/-! PROOFS. Single data transfers (43_single_data_transfer.md): how LDR, LDRB, STR and STRB can end, which bytes of flat
memory they move, and what they leave unchanged on every platform. -/

namespace Sys2Proof.Machine

/-! ## Bytes of a word and of memory (R45, R47, R174) -/

theorem toNat_alignWord (a : Addr) : (alignWord a).toNat = 4 * (a.toNat / 4) := by
  have := a.isLt
  rw [alignWord, BitVec.toNat_append, ← Nat.shiftLeft_add_eq_or_of_lt (0#2).isLt, Nat.shiftLeft_eq,
    BitVec.extractLsb'_toNat, Nat.shiftRight_eq_div_pow, BitVec.toNat_ofNat]
  omega

/-- An aligned word lies below 2^26 as a whole. -/
theorem alignWord_in_bus (a : Addr) : (alignWord a).toNat + 3 < 2 ^ 26 := by
  have := a.isLt
  rw [toNat_alignWord]
  omega

theorem field_busAddress (a : Word) : field (busAddress a) 0 2 = field a 0 2 := field_field a (by decide)

/-- The addressed byte stands in the aligned word at the place that bits 1:0 give (R47). -/
theorem toNat_busAddress (a : Word) :
    (busAddress a).toNat = (alignWord (busAddress a)).toNat + (field a 0 2).toNat := by
  rw [toNat_alignWord, ← field_busAddress, BitVec.extractLsb'_toNat, Nat.shiftRight_zero]
  omega

theorem byteOfWord_wordOfBytes (f : Nat → Byte) {k : Nat} (hk : k < 4) :
    byteOfWord (wordOfBytes (f 0) (f 1) (f 2) (f 3)) k = f k := by
  unfold byteOfWord wordOfBytes
  interval_cases k <;> simp (disch := decide) only [field_append_low, field_append_high] <;> simp

theorem byteOfWord_readWord (m : Memory) (a : Nat) {k : Nat} (hk : k < 4) :
    byteOfWord (m.readWord a) k = m.read (a + k) :=
  byteOfWord_wordOfBytes (fun n => m.read (a + n)) hk

theorem byteOfWord_repeatByte (v : Word) : byteOfWord (repeatByte v) 0 = byteOfWord v 0 :=
  byteOfWord_wordOfBytes (fun _ => byteOfWord v 0) (by decide)

/-- Byte `k` of the rotated word is the byte `k` places above the addressed one, modulo 4 (R174). -/
theorem byteOfWord_loadRotate (a w : Word) {k : Nat} (hk : k < 4) :
    byteOfWord (loadRotate a w) k = byteOfWord w ((k + (field a 0 2).toNat) % 4) := by
  refine BitVec.eq_of_getLsbD_eq fun i hi => ?_
  change bit (field _ _ _) i = bit (field _ _ _) i
  rw [bit_field _ hi, bit_field _ hi, loadRotate, bit_rotateRight _ _ (by omega)]
  congr 1
  omega

/-- The bytes of a stored word (R45). -/
theorem Memory.read_writeWord_inside {m : Memory} (w : Memory.wf m = true) {a : Nat} (ha : a + 3 < 2 ^ 26) (v : Word)
    {k : Nat} (hk : k < 4) : (m.writeWord a v).read (a + k) = byteOfWord v k := by
  rw [Memory.read_writeWord w ha]
  interval_cases k <;> simp

theorem Memory.read_writeWord_outside {m : Memory} (w : Memory.wf m = true) {a : Nat} (ha : a + 3 < 2 ^ 26) (v : Word)
    {b : Nat} (hb : b < a ∨ a + 4 ≤ b) : (m.writeWord a v).read b = m.read b := by
  rw [Memory.read_writeWord w ha, if_neg (by omega), if_neg (by omega), if_neg (by omega), if_neg (by omega)]

/-- The bytes that a store at the aligned location `loc` leaves alone, `lane` being the addressed byte (R47). -/
def OutsideStore (size : Size) (loc lane a : Nat) : Prop :=
  match size with
  | .word => a < loc ∨ loc + 4 ≤ a
  | .byte => a ≠ loc + lane

/-- What a store leaves in memory outside its bytes (R47). -/
theorem storeAt_read_outside {s : State} (w : Memory.wf s.mem = true) {loc : Nat} (hl : loc + 3 < 2 ^ 26) (addr : Addr)
    (size : Size) (d : Word) {a : Nat} (ha : OutsideStore size loc (field addr 0 2).toNat a) :
    (storeAt loc addr size d s).mem.read a = s.mem.read a := by
  cases size with
  | word => exact Memory.read_writeWord_outside w hl d ha
  | byte => exact (Memory.read_write w _ _ a).trans (if_neg ha)

/-! ## How a single transfer ends (R171-R181) -/

/-- The register file after the write-back of the base (R172). -/
def basedRegs (p w : Bool) (rn : Reg) (modified : Word) (s : State) : RegFile :=
  if writesBack p w && rn != 15#4 then setPhys s.regs (phys (writeBank 4 s) rn) modified else s.regs

theorem basedRegs_r15 (p w : Bool) (modified : Word) (s : State) : basedRegs p w 15#4 modified s = s.regs := by
  simp [basedRegs]

theorem writeBackReg_eq (p w : Bool) (rn : Reg) (modified : Word) (s : State) :
    writeBackReg p w rn modified s = { s with regs := basedRegs p w rn modified s } := by
  unfold writeBackReg basedRegs
  split <;> rfl

theorem writeBackReg_r15 (p w : Bool) (modified : Word) (s : State) : writeBackReg p w 15#4 modified s = s := by
  rw [writeBackReg_eq, basedRegs_r15]

/-- The register file after the write-back and the loaded value, which comes last (R179). -/
def loadedRegs (p w : Bool) (rn rd : Reg) (modified data : Word) (s : State) : RegFile :=
  if rd = 15#4 then basedRegs p w rn modified s
  else setPhys (basedRegs p w rn modified s) (phys (writeBank 3 s) rd) data

/-- The next state of a load whose read was answered, leaving `t`: R15 as Rd is a jump, then R15 as the base of a
write-back (R175, R178, R179). -/
def loaded (p w : Bool) (rn rd : Reg) (modified data : Word) (t : State) : State :=
  if rd = 15#4 then retire (jump (pcBits data) (writeBackReg p w rn modified t))
  else if writesBack p w = true ∧ rn = 15#4 then retire (jump (pcBits modified) (writeReg 3 rd data t))
  else retire (advance (writeReg 3 rd data (writeBackReg p w rn modified t)))

theorem finishTransfer_eq (p w : Bool) (rn : Reg) (modified : Word) (t : State) :
    finishTransfer p w rn modified t =
      .next (if writesBack p w = true ∧ rn = 15#4 then retire (jump (pcBits modified) t) else retire (advance t)) := by
  simp only [finishTransfer, finishJump, finish, Bool.and_eq_true, beq_iff_eq]
  split <;> rfl

theorem finishTransfer_transferred (p w : Bool) (rn : Reg) (modified : Word) (t : State) :
    finishTransfer p w rn modified (writeBackReg p w rn modified t) = .next (transferred p w rn modified t) := by
  rw [finishTransfer_eq, transferred]
  split
  case isTrue h => rw [h.2, writeBackReg_r15]
  case isFalse => rfl

theorem loadEnd_loaded (p w : Bool) (rn rd : Reg) (modified data : Word) (t : State) :
    (if rd = 15#4 then finishJump (pcBits data) (writeBackReg p w rn modified t)
      else finishTransfer p w rn modified (writeReg 3 rd data (writeBackReg p w rn modified t))) =
      .next (loaded p w rn rd modified data t) := by
  rw [finishTransfer_eq, loaded]
  split
  case isTrue => rfl
  case isFalse =>
    split
    case isTrue h => rw [h.2, writeBackReg_r15]
    case isFalse => rfl

/-- How an instruction ends that makes one access at a legal address and goes on to `done` where it is answered. -/
inductive TransferEnd {α : Type} (access : Bus α) (done : α → State → State) (s : State) : State → Prop where
  | skipped : TransferEnd access done s (retire (advance s))
  | illegal : TransferEnd access done s (enter .addressException s)
  | answered {v : α} {t : State} : access = .done v t → TransferEnd access done s (done v t)
  | aborted {t : State} : access = .abort t → TransferEnd access done s (enter .dataAbort t)
  | held {t : State} : access = .held t → TransferEnd access done s t

section
variable {c : Cond} {p u w : Bool} {rn rd : Reg} {off : Offset} {s t : State}

/-- A load whose read is answered. -/
theorem singleLoad_answered (extract : Word → Word → Word) (hc : condPassed c s.psr = true)
    (legal : illegalAddress (singleAddress p u rn off s) = false) {word : Word}
    (hr : memRead (busAddress (singleAddress p u rn off s)) (translateBit p w s) s = .done word t) :
    singleLoad extract c p u w rn rd off s =
      .next (loaded p w rn rd (singleModified u rn off s) (extract (singleAddress p u rn off s) word) t) := by
  rw [singleLoad, conditional_pass hc]
  dsimp only
  rw [if_neg (ne_true_of_eq_false legal), hr, Bus.out_done]
  exact loadEnd_loaded ..

/-- A store whose write is answered. -/
theorem singleStore_answered {size : Size} {data : Word → Word} (hc : condPassed c s.psr = true)
    (legal : illegalAddress (singleAddress p u rn off s) = false)
    (hw : memWrite (busAddress (singleAddress p u rn off s)) size (data (regOrR15 12 3 rd s)) (translateBit p w s) s =
      .done () t) :
    singleStore size data c p u w rn rd off s = .next (transferred p w rn (singleModified u rn off s) t) := by
  rw [singleStore, conditional_pass hc]
  dsimp only
  rw [if_neg (ne_true_of_eq_false legal), hw, Bus.out_done]
  exact finishTransfer_transferred ..

/-- The one case analysis of a conditional access at a checked address. -/
theorem TransferEnd.of_conditional {α : Type} {run : State → Out} {bad : Bool} {access : Bus α} {ok : α → State → Out}
    {done : α → State → State} (h : conditional c s run = .next t)
    (hrun : run s = if bad then raise .addressException s else access.out ok (raise .dataAbort))
    (hok : ∀ v x, ok v x = .next (done v x)) : TransferEnd access done s t := by
  obtain ⟨-, rfl⟩ | ⟨-, h⟩ := conditional_cases h
  · exact .skipped
  · rw [hrun] at h
    split at h
    · cases h
      exact .illegal
    · obtain ⟨v, x, answer, h⟩ | ⟨x, answer, h⟩ | answer := Bus.out_cases h
      · cases (hok v x).symm.trans h
        exact .answered answer
      · cases h
        exact .aborted answer
      · exact .held answer

theorem singleLoad_transferEnd {extract : Word → Word → Word}
    (h : singleLoad extract c p u w rn rd off s = .next t) :
    TransferEnd (memRead (busAddress (singleAddress p u rn off s)) (translateBit p w s) s)
      (fun word => loaded p w rn rd (singleModified u rn off s) (extract (singleAddress p u rn off s) word)) s t :=
  .of_conditional h rfl fun _ _ => loadEnd_loaded ..

theorem singleStore_transferEnd {size : Size} {data : Word → Word}
    (h : singleStore size data c p u w rn rd off s = .next t) :
    TransferEnd
      (memWrite (busAddress (singleAddress p u rn off s)) size (data (regOrR15 12 3 rd s)) (translateBit p w s) s)
      (fun _ => transferred p w rn (singleModified u rn off s)) s t :=
  .of_conditional h rfl fun _ _ => finishTransfer_transferred ..

end

/-- Settles O24: the read is answered, and `loaded` is the end it leads to. -/
theorem loadResult : Obligations.LoadResult := by
  intro c p u w rn rd off s t word hc addr modified legal hr based after
  exact ⟨singleLoad_answered loadRotate hc legal hr, singleLoad_answered loadByte hc legal hr⟩

/-- Settles O25: the write is answered, and `transferred` is the end it leads to. -/
theorem storeResult : Obligations.StoreResult := by
  intro c p u w rn rd off s t hc addr modified value legal
  exact ⟨singleStore_answered (data := fun v => v) hc legal, singleStore_answered hc legal⟩

/-! ## What a single transfer leaves of the processor (R172, R180) -/

/-- `t` is `s` where an instruction ends, going on or with a write of the PC. -/
def Ends (s t : State) : Prop := t = retire (advance s) ∨ ∃ target, t = retire (jump target s)

theorem transferred_ends (p w : Bool) (rn : Reg) (modified : Word) (t : State) :
    Ends { t with regs := basedRegs p w rn modified t } (transferred p w rn modified t) := by
  unfold transferred
  split
  case isTrue h =>
    obtain ⟨-, rfl⟩ := h
    rw [basedRegs_r15]
    exact .inr ⟨_, rfl⟩
  case isFalse => exact .inl (by rw [writeBackReg_eq])

theorem loaded_ends (p w : Bool) (rn rd : Reg) (modified data : Word) (t : State) :
    Ends { t with regs := loadedRegs p w rn rd modified data t } (loaded p w rn rd modified data t) := by
  unfold loaded loadedRegs
  split
  case isTrue => exact .inr ⟨_, by rw [writeBackReg_eq]⟩
  case isFalse =>
    split
    case isTrue h =>
      obtain ⟨-, rfl⟩ := h
      rw [basedRegs_r15]
      exact .inr ⟨_, rfl⟩
    case isFalse =>
      rw [writeBackReg_eq]
      exact .inl rfl

/-- What a transfer begun at `s` may make of the processor: no register but those `written` and R14_svc in a trap to
0x10 or 0x14, and the PSR only in such a trap. -/
structure TransferFramed (written : PhysReg → Prop) (s t : State) : Prop where
  cp15 : t.cp15 = s.cp15
  coprocs : t.coprocs = s.coprocs
  plat : t.plat = s.plat
  regs : ∀ q, getPhys t.regs q = getPhys s.regs q ∨ written q ∨ (q = .svc 1 ∧ (t.pc = 4#24 ∨ t.pc = 5#24))
  psr : t.psr = s.psr ∨ (t.psr = { s.psr with i := true, mode := .svc } ∧ (t.pc = 4#24 ∨ t.pc = 5#24))

namespace TransferFramed

variable {written : PhysReg → Prop} {s v t : State}

theorem of_core (h : SameCore s t) : TransferFramed written s t :=
  ⟨h.cp15, h.coprocs, h.plat, fun q => .inl (by rw [h.regs]), .inl h.psr⟩

theorem of_ends (h : SameCore s v) {r : RegFile} (hr : ∀ q, getPhys r q = getPhys s.regs q ∨ written q)
    (he : Ends { v with regs := r } t) : TransferFramed written s t := by
  obtain rfl | ⟨_, rfl⟩ := he <;>
    exact ⟨h.cp15, h.coprocs, h.plat, fun q => (hr q).imp_right .inl, .inl h.psr⟩

/-- The trap to 0x10 or 0x14 (R456, R457). -/
theorem of_trap (h : SameCore s v) {e : Exc} (he : e = .dataAbort ∨ e = .addressException) :
    TransferFramed written s (enter e v) := by
  have link : phys e.mode 14#4 = .svc 1 := by obtain rfl | rfl := he <;> rfl
  have pc : (enter e v).pc = 4#24 ∨ (enter e v).pc = 5#24 := he.imp (congrArg Exc.vector) (congrArg Exc.vector)
  refine ⟨h.cp15, h.coprocs, h.plat, fun q => ?regs, .inr ⟨?psr, pc⟩⟩
  case regs =>
    by_cases hq : q = .svc 1
    · exact .inr (.inr ⟨hq, pc⟩)
    · exact .inl ((enter_other e v (link ▸ hq)).trans (by rw [h.regs]))
  case psr =>
    rw [enter_psr, h.psr]
    obtain rfl | rfl := he <;> simp [Exc.setsF, Exc.mode]

end TransferFramed

namespace TransferEnd

variable {α : Type} {access : Bus α} {done : α → State → State} {s t : State}

/-- An access that leaves the processor alone and an end that keeps the frame keep it together. -/
theorem framed (h : TransferEnd access done s t) {written : PhysReg → Prop} (core : leaves (SameCore s) access)
    (hd : ∀ v x, SameCore s x → TransferFramed written s (done v x)) : TransferFramed written s t := by
  cases h with
  | skipped => exact .of_ends (.refl s) (fun _ => .inl rfl) (.inl rfl)
  | illegal => exact .of_trap (.refl s) (.inr rfl)
  | answered answer => subst answer; exact hd _ _ core
  | aborted answer => subst answer; exact .of_trap core (.inl rfl)
  | held answer => subst answer; exact .of_core core

/-- Only the access writes memory. -/
theorem mem (h : TransferEnd access done s t) {P : Memory → Prop} (start : P s.mem)
    (left : leaves (fun x => P x.mem) access) (hd : ∀ v x, (done v x).mem = x.mem) : P t.mem := by
  cases h with
  | skipped | illegal => exact start
  | @answered v x answer => subst answer; rw [hd]; exact left
  | aborted answer | held answer => subst answer; exact left

end TransferEnd

theorem Ends.mem {s t : State} {r : RegFile} (h : Ends { s with regs := r } t) : t.mem = s.mem := by
  obtain rfl | ⟨_, rfl⟩ := h <;> rfl

theorem SameCore.writeBank {s t : State} (h : SameCore s t) (pos : Nat) : writeBank pos t = writeBank pos s := by
  simp only [Machine.writeBank, h.hazard, h.psr]

section
variable (p w : Bool) (rn rd : Reg) (modified data : Word) {s t : State}

theorem basedRegs_of_core (h : SameCore s t) : basedRegs p w rn modified t = basedRegs p w rn modified s := by
  rw [basedRegs, h.writeBank, h.regs, basedRegs]

theorem loadedRegs_of_core (h : SameCore s t) :
    loadedRegs p w rn rd modified data t = loadedRegs p w rn rd modified data s := by
  rw [loadedRegs, basedRegs_of_core p w rn modified h, h.writeBank, loadedRegs]

/-- Outside a hazard a write-back changes the base only, and never R15. -/
theorem getPhys_basedRegs (plain : s.hazard = .none) (q : PhysReg) :
    getPhys (basedRegs p w rn modified s) q = getPhys s.regs q ∨
      (writesBack p w = true ∧ rn ≠ 15#4 ∧ q = phys s.psr.mode rn) := by
  unfold basedRegs
  split
  case isFalse => exact .inl rfl
  case isTrue h =>
    obtain ⟨back, base⟩ := Bool.and_eq_true_iff.1 h
    rw [writeBank_plain plain]
    by_cases hq : q = phys s.psr.mode rn
    · exact .inr ⟨back, bne_iff_ne.1 base, hq⟩
    · exact .inl (getPhys_setPhys_ne _ _ hq)

theorem getPhys_loadedRegs (plain : s.hazard = .none) (q : PhysReg) :
    getPhys (loadedRegs p w rn rd modified data s) q = getPhys s.regs q ∨ (rd ≠ 15#4 ∧ q = phys s.psr.mode rd) ∨
      (writesBack p w = true ∧ rn ≠ 15#4 ∧ q = phys s.psr.mode rn) := by
  have based := getPhys_basedRegs p w rn modified plain q
  unfold loadedRegs
  split
  case isTrue => exact based.imp_right .inr
  case isFalse hd =>
    rw [writeBank_plain plain]
    by_cases hq : q = phys s.psr.mode rd
    · exact .inr (.inl ⟨hd, hq⟩)
    · rw [getPhys_setPhys_ne _ _ hq]
      exact based.imp_right .inr

end

section
variable {c : Cond} {p u w : Bool} {rn rd : Reg} {off : Offset} {s t : State}

theorem singleLoad_framed {extract : Word → Word → Word} (plain : s.hazard = .none)
    (h : singleLoad extract c p u w rn rd off s = .next t) :
    TransferFramed (fun q => (rd ≠ 15#4 ∧ q = phys s.psr.mode rd) ∨
      (writesBack p w = true ∧ rn ≠ 15#4 ∧ q = phys s.psr.mode rn)) s t := by
  refine (singleLoad_transferEnd h).framed (leaves_core (memRead_same _ _ s)) fun word x hx => ?_
  refine .of_ends hx (fun q => ?_) (loaded_ends ..)
  rw [loadedRegs_of_core p w rn rd _ _ hx]
  exact getPhys_loadedRegs p w rn rd _ _ plain q

theorem singleLoad_mem {extract : Word → Word → Word} (h : singleLoad extract c p u w rn rd off s = .next t) :
    t.mem = s.mem :=
  (singleLoad_transferEnd h).mem (P := (· = s.mem)) rfl (leaves_mono (memRead_same _ _ s) fun _ same => same.2)
    fun _ _ => (loaded_ends ..).mem

theorem singleStore_framed {size : Size} {data : Word → Word} (plain : s.hazard = .none)
    (h : singleStore size data c p u w rn rd off s = .next t) :
    TransferFramed (fun q => writesBack p w = true ∧ rn ≠ 15#4 ∧ q = phys s.psr.mode rn) s t := by
  refine (singleStore_transferEnd h).framed (memWrite_core _ _ _ _ s) fun _ x hx => ?_
  refine .of_ends hx (fun q => ?_) (transferred_ends ..)
  rw [basedRegs_of_core p w rn _ hx]
  exact getPhys_basedRegs p w rn _ plain q

end

/-- Settles O29: a read leaves processor and memory, and every end of a load keeps the frame. -/
theorem loadFrame : Obligations.LoadFrame := by
  intro c p u w rn rd off i s t plain hi ht
  have load : ∃ extract, singleLoad extract c p u w rn rd off s = .next t := by
    obtain rfl | rfl := hi
    · exact ⟨loadRotate, ht⟩
    · exact ⟨loadByte, ht⟩
  obtain ⟨extract, ht⟩ := load
  have mem := singleLoad_mem ht
  have framed := singleLoad_framed plain ht
  exact ⟨mem, fun a => by rw [mem], framed.cp15, framed.coprocs, framed.plat,
    fun q => (framed.regs q).imp_right or_assoc.1, framed.psr⟩

/-! ## What a store leaves of memory (R47, R303) -/

theorem ioWrite_mem (a : Addr) (d : Word) (s : State) : leaves (fun t => t.mem = s.mem) (ioWrite a d s) := by
  unfold ioWrite writeIocRegister writeTimer goTimer
  dsimp only
  repeat' split
  all_goals rfl

theorem writeVidc_mem (d : Word) (s : State) : leaves (fun t => t.mem = s.mem) (writeVidc d s) := by
  unfold writeVidc
  dsimp only
  repeat' split
  all_goals trivial

theorem setPageSize_mem (code : BitVec 2) (s : State) : (setPageSize code s).mem = s.mem := by
  unfold setPageSize
  split <;> rfl

theorem writeMemcRegister_mem (a : Addr) (s : State) : leaves (fun t => t.mem = s.mem) (writeMemcRegister a s) := by
  unfold writeMemcRegister
  dsimp only
  split
  case h_8 =>
    unfold writeMemcControl
    dsimp only
    split <;> exact setPageSize_mem _ s
  all_goals rfl

theorem writeTranslator_mem (a : Addr) (s : State) : leaves (fun t => t.mem = s.mem) (writeTranslator a s) := by
  unfold writeTranslator
  dsimp only
  split
  · trivial
  · rfl

@[simp] theorem cacheWrite_mem (a : Addr) (size : Size) (d : Word) (tr aborted : Bool) (s : State) :
    (cacheWrite a size d tr aborted s).mem = s.mem := by
  unfold cacheWrite
  repeat' split
  all_goals rfl

@[simp] theorem overlapPrefetch_mem (a : Addr) (size : Size) (d : Word) (s : State) :
    (overlapPrefetch a size d s).mem = s.mem := by
  unfold overlapPrefetch
  split <;> rfl

/-- What a write makes of memory is what its bus cycle makes of it. -/
theorem memWrite_mem {P : Memory → Prop} {a : Addr} {size : Size} {d : Word} {tr : Bool} {s : State}
    (h : leaves (fun t => P t.mem) (extWrite a size d tr s)) : leaves (fun t => P t.mem) (memWrite a size d tr s) := by
  unfold memWrite
  revert h
  cases extWrite a size d tr s with
  | done stored t =>
    intro h
    dsimp only
    split <;> simpa [leaves] using h
  | abort t => exact fun h => (congrArg P (cacheWrite_mem a size d tr true t)).mpr h
  | held t => exact id
  | refused r => exact id

/-- Where an access reaches memory, the whole aligned word is below 2^26. -/
def ReachesBus (b : Bus Target) : Prop :=
  match b with
  | .done (.memory loc) _ => loc + 3 < 2 ^ 26
  | _ => True

theorem ramLocation_in_bus (plat : Platform) (pa : Nat) : ramLocation plat pa + 3 < 2 ^ 26 := by
  rw [ramLocation]
  cases plat.ram <;> simp only [RamSize.bytes] <;> omega

theorem ramTarget_reachesBus (pa : Nat) (s : State) : ReachesBus (ramTarget pa s) := by
  unfold ramTarget
  split
  · exact ramLocation_in_bus s.plat pa
  · exact True.intro

theorem logicalTarget_reachesBus (write : Bool) (a : Addr) (tr : Bool) (s : State) :
    ReachesBus (logicalTarget write a tr s) := by
  unfold logicalTarget
  dsimp only
  repeat' split
  all_goals first | exact ramTarget_reachesBus _ _ | exact True.intro

/-- A write reaches RAM or the flat memory, never a ROM. -/
theorem busTarget_write_reachesBus (a : Addr) (tr : Bool) (s : State) : ReachesBus (busTarget true a tr s) := by
  unfold busTarget
  split
  · unfold memcTarget
    simp only [reduceCtorEq, and_false, if_false, if_true]
    repeat' split
    all_goals first
      | exact True.intro
      | exact logicalTarget_reachesBus _ _ _ _
      | exact ramTarget_reachesBus _ _
  · exact alignWord_in_bus a

/-- The memory `n` after a store of byte lane `lane` that went to `target`, against the memory `m` before: the same
outside the stored bytes, all the same where no memory was reached, and open where a boot state loses RAM (U33). -/
def StoreKeeps (size : Size) (lane : Nat) (target : Bus Target) (m n : Memory) : Prop :=
  match target with
  | .done (.memory loc) _ => ∀ a, OutsideStore size loc lane a → n.read a = m.read a
  | .done .bootRam _ => True
  | _ => ∀ a, n.read a = m.read a

theorem StoreKeeps.of_eq (size : Size) (lane : Nat) (target : Bus Target) {m n : Memory} (h : n = m) :
    StoreKeeps size lane target m n := by
  subst h
  unfold StoreKeeps
  split
  · exact fun _ _ => rfl
  · trivial
  · exact fun _ => rfl

/-- A write cycle keeps memory as its decode says, other agents having acted before. -/
theorem extWrite_keeps {s : State} (hcut : s.cut = none) (wf : Memory.wf s.mem = true) (a : Addr) (size : Size)
    (d : Word) (tr : Bool) :
    leaves (fun t => StoreKeeps size (field a 0 2).toNat (busTarget true a tr (takeBatch s)) s.mem t.mem)
      (extWrite a size d tr s) := by
  have same := leaves_from (takeBatch_same s) (busTarget_same true a tr (takeBatch s))
  have reach := busTarget_write_reachesBus a tr (takeBatch s)
  rw [extWrite, startAccess_uncut hcut, Bus.bind_done]
  revert same reach
  cases busTarget true a tr (takeBatch s) with
  | done x v =>
    intro (same : SameStore s v) reach
    have kept {β : Type} {c : Bus β} (h : leaves (fun t => t.mem = v.mem) c) :
        leaves (fun t => StoreKeeps size (field a 0 2).toNat (.done x v) s.mem t.mem) c :=
      leaves_mono h fun _ h => .of_eq size _ _ (h.trans same.2)
    rw [Bus.bind_done]
    cases x with
    | memory loc =>
      intro b hb
      rw [storeAt_read_outside (same.2 ▸ wf) reach a size d hb, same.2]
    | bootRam => trivial
    | io => exact kept (leaves_bind (ioWrite_mem a d v) fun _ t _ h => (sampleEdges_same t).2.trans h)
    | vidc =>
      dsimp only
      split
      · exact kept (leaves_bind (writeVidc_mem d v) fun _ t _ h => (sampleEdges_same t).2.trans h)
      · exact kept (Eq.refl v.mem)
    | register => exact kept (leaves_bind (writeMemcRegister_mem a v) fun _ t _ h => (sampleEdges_same t).2.trans h)
    | translator => exact kept (leaves_bind (writeTranslator_mem a v) fun _ _ _ h => h)
  | abort v => exact fun same _ => StoreKeeps.of_eq size (field a 0 2).toNat (.abort v) same.2
  | held v => exact fun same _ => StoreKeeps.of_eq size (field a 0 2).toNat (.held v) same.2
  | refused r => exact fun _ _ => trivial

section
variable {c : Cond} {p u w : Bool} {rn rd : Reg} {off : Offset} {s t : State}

theorem singleStore_keeps {size : Size} {data : Word → Word} (hcut : s.cut = none) (wf : Memory.wf s.mem = true)
    (h : singleStore size data c p u w rn rd off s = .next t) :
    StoreKeeps size (field (singleAddress p u rn off s) 0 2).toNat
      (busTarget true (busAddress (singleAddress p u rn off s)) (translateBit p w s) (takeBatch s)) s.mem t.mem := by
  have write := memWrite_mem (P := StoreKeeps size _ _ s.mem) (extWrite_keeps hcut wf
    (busAddress (singleAddress p u rn off s)) size (data (regOrR15 12 3 rd s)) (translateBit p w s))
  rw [← field_busAddress]
  exact (singleStore_transferEnd h).mem (P := StoreKeeps size _ _ s.mem) (.of_eq size _ _ rfl) write
    fun _ _ => (transferred_ends ..).mem

end

/-- Settles O30: the write cycle keeps memory as the decode says, and every end of a store keeps the frame. -/
theorem storeFrame : Obligations.StoreFrame := by
  intro c p u w rn rd off i size s t plain hcut wf hi ht addr lane
  have store : ∃ data, singleStore size data c p u w rn rd off s = .next t := by
    obtain ⟨rfl, rfl⟩ | ⟨rfl, rfl⟩ := hi
    · exact ⟨fun v => v, ht⟩
    · exact ⟨repeatByte, ht⟩
  obtain ⟨data, ht⟩ := store
  have framed := singleStore_framed plain ht
  have keeps : StoreKeeps size lane _ s.mem t.mem := singleStore_keeps hcut wf ht
  refine ⟨?mem, framed.cp15, framed.coprocs, framed.plat, framed.regs, framed.psr⟩
  revert keeps
  cases busTarget true (busAddress addr) (translateBit p w s) (takeBatch s) with
  | done x v =>
    cases x with
    | memory loc => exact fun keeps a ha => keeps a (by cases size <;> exact ha)
    | bootRam | io | vidc | register | translator => exact id
  | abort v | held v | refused r => exact id

/-! ## Flat memory (R45, R55) -/

section
variable {a : Addr} {tr : Bool} {s : State} (flat : s.plat.hasMemc = false)
include flat

/-- Without MEMC an access reaches the aligned word at its own address. -/
theorem busTarget_flat (write : Bool) :
    busTarget write a tr (takeBatch s) = .done (.memory (alignWord a).toNat) (takeBatch s) :=
  if_neg (ne_true_of_eq_false ((congrArg Platform.hasMemc (takeBatch_same s).1.plat).trans flat))

variable (hcut : s.cut = none)
include hcut

theorem memRead_flat (uncached : cacheOn s = false) :
    memRead a tr s = .done (s.mem.readWord (alignWord a).toNat) (takeBatch s) := by
  rw [memRead, if_neg (ne_true_of_eq_false uncached), extRead, startAccess_uncut hcut, Bus.bind_done,
    busTarget_flat flat, Bus.bind_done]
  exact congrArg (fun m : Memory => Bus.done (m.readWord (alignWord a).toNat) (takeBatch s)) (takeBatch_same s).2

/-- A write to flat memory stores, whatever it does to the cache and to the words prefetched. -/
theorem memWrite_flat (size : Size) (d : Word) :
    ∃ t, memWrite a size d tr s = .done () t ∧ SameCore s t ∧ t.mem = (storeAt (alignWord a).toNat a size d s).mem := by
  have cycle : extWrite a size d tr s = .done true (storeAt (alignWord a).toNat a size d (takeBatch s)) := by
    rw [extWrite, startAccess_uncut hcut, Bus.bind_done, busTarget_flat flat, Bus.bind_done]
  have stored :
      (storeAt (alignWord a).toNat a size d (takeBatch s)).mem = (storeAt (alignWord a).toNat a size d s).mem := by
    cases size <;> simp only [storeAt, (takeBatch_same s).2]
  have core := memWrite_core a size d tr s
  have done := memWrite_mem (P := (· = (storeAt (alignWord a).toNat a size d s).mem)) (by rw [cycle]; exact stored)
  rw [memWrite, cycle] at core done
  rw [memWrite, cycle]
  exact ⟨_, rfl, core, done⟩

end

section
variable {c : Cond} {p u w : Bool} {rn rd : Reg} {off : Offset} {s : State} (hc : condPassed c s.psr = true)
  (hcut : s.cut = none) (flat : s.plat.hasMemc = false) (hb : writesBack p w = true → rn ≠ 15#4)
  (legal : illegalAddress (singleAddress p u rn off s) = false)
include hc hcut flat hb legal

/-- A load from flat memory to a register, without a jump: the loaded value comes from the aligned word. -/
theorem singleLoad_flat (extract : Word → Word → Word) (uncached : cacheOn s = false) (hd : rd ≠ 15#4) :
    ∃ t, singleLoad extract c p u w rn rd off s = .next t ∧
      (t.mem = s.mem ∧ t.psr = s.psr ∧ t.pc = s.pc + 1 ∧ ∀ q, q ≠ phys (writeBank 3 s) rd →
        getPhys t.regs q = getPhys (writeBackReg p w rn (singleModified u rn off s) s).regs q) ∧
      getPhys t.regs (phys (writeBank 3 s) rd) = extract (singleAddress p u rn off s)
        (s.mem.readWord (alignWord (busAddress (singleAddress p u rn off s))).toNat) := by
  obtain ⟨core, mem⟩ := takeBatch_same s
  refine ⟨_, singleLoad_answered extract hc legal (memRead_flat flat hcut uncached), ?_⟩
  rw [loaded, if_neg hd, if_neg fun h => hb h.1 h.2, writeBackReg_eq, writeBackReg_eq, basedRegs_of_core _ _ _ _ core]
  have bank : writeBank 3 (takeBatch s) = writeBank 3 s := core.writeBank 3
  refine ⟨⟨mem, core.psr, congrArg (· + 1) core.pc, fun q hq => ?_⟩, ?_⟩
  · exact getPhys_setPhys_ne _ _ (bank ▸ hq)
  · rw [← bank]
    exact getPhys_setPhys_same _ _ _

/-- A store to flat memory, without a jump. -/
theorem singleStore_flat (size : Size) (data : Word → Word) :
    ∃ t, singleStore size data c p u w rn rd off s = .next t ∧
      (t.regs = (writeBackReg p w rn (singleModified u rn off s) s).regs ∧ t.psr = s.psr ∧ t.pc = s.pc + 1) ∧
      t.mem = (storeAt (alignWord (busAddress (singleAddress p u rn off s))).toNat
        (busAddress (singleAddress p u rn off s)) size (data (regOrR15 12 3 rd s)) s).mem := by
  obtain ⟨t, write, core, mem⟩ := memWrite_flat (a := busAddress (singleAddress p u rn off s))
    (tr := translateBit p w s) flat hcut size (data (regOrR15 12 3 rd s))
  refine ⟨_, singleStore_answered hc legal write, ?_⟩
  rw [transferred, if_neg fun h => hb h.1 h.2, writeBackReg_eq, writeBackReg_eq, basedRegs_of_core _ _ _ _ core]
  exact ⟨⟨rfl, core.psr, congrArg (· + 1) core.pc⟩, mem⟩

end

/-- Settles O27: the word read is the aligned one, rotated for LDR and its addressed byte for LDRB. -/
theorem loadPlain : Obligations.LoadPlain := by
  intro c p u w rn rd off s hc hcut flat hoff hd hb addr loc lane dest based rest legal
  refine ⟨?ldr, ?ldrb⟩
  case ldr =>
    obtain ⟨t, ht, frame, value⟩ := singleLoad_flat hc hcut flat hb legal loadRotate hoff hd
    refine ⟨t, ht, frame, fun k hk => ?_⟩
    rw [value, byteOfWord_loadRotate _ _ hk, byteOfWord_readWord _ _ (Nat.mod_lt _ (by decide))]
  case ldrb =>
    obtain ⟨t, ht, frame, value⟩ := singleLoad_flat hc hcut flat hb legal loadByte hoff hd
    refine ⟨t, ht, frame, ?_⟩
    rw [value, loadByte, byteOfWord_readWord _ _ (field addr 0 2).isLt, toNat_busAddress]

/-- Settles O28: what a read gives after the word store, and after the byte store at the addressed place. -/
theorem storePlain : Obligations.StorePlain := by
  intro c p u w rn rd off s hc hcut flat wf plain hb addr loc value based rest legal
  have inBus : loc + 3 < 2 ^ 26 := alignWord_in_bus _
  refine ⟨?str, ?strb⟩
  case str =>
    obtain ⟨t, ht, frame, mem⟩ := singleStore_flat hc hcut flat hb legal .word fun v => v
    refine ⟨t, ht, frame, ?_⟩
    rw [mem]
    exact ⟨fun k hk => Memory.read_writeWord_inside wf inBus value hk,
      fun a ha => Memory.read_writeWord_outside wf inBus value ha⟩
  case strb =>
    obtain ⟨t, ht, frame, mem⟩ := singleStore_flat hc hcut flat hb legal .byte repeatByte
    refine ⟨t, ht, frame, ?_⟩
    have read (a : Nat) :
        t.mem.read a = if a = (busAddress addr).toNat then byteOfWord value 0 else s.mem.read a := by
      rw [mem, ← byteOfWord_repeatByte, toNat_busAddress, ← field_busAddress]
      exact Memory.read_write wf _ _ a
    exact ⟨(read _).trans (if_pos rfl), fun a ha => (read a).trans (if_neg ha)⟩

end Sys2Proof.Machine
end

section
/-! PROOFS. Block data transfers (44_block_data_transfer.md): the registers of a list and the addresses of a block, how STM
and LDM end where every access is answered, and which words of flat memory they move. -/

namespace Sys2Proof.Machine

/-! ## The registers of a list (R191) -/

theorem mem_listFrom {list : BitVec 16} {n : Nat} (hn : n ≤ 16) (r : Reg) :
    r ∈ listFrom list n ↔ r.toNat < n ∧ bit list r.toNat = true := by
  induction n with
  | zero => simp [listFrom]
  | succ n ih =>
    have last : r = BitVec.ofNat 4 n ↔ r.toNat = n := by
      rw [← BitVec.toNat_inj, BitVec.toNat_ofNat, Nat.mod_eq_of_lt (by omega)]
    rw [listFrom, List.mem_append, ih (by omega), List.mem_ite_nil_right, List.mem_singleton, last,
      Nat.lt_succ_iff_lt_or_eq]
    constructor
    · rintro (⟨lt, h⟩ | ⟨h, eq⟩)
      · exact ⟨.inl lt, h⟩
      · exact ⟨.inr eq, eq ▸ h⟩
    · rintro ⟨lt | eq, h⟩
      · exact .inl ⟨lt, h⟩
      · exact .inr ⟨eq ▸ h, eq⟩

theorem mem_listedRegs (list : BitVec 16) (r : Reg) : r ∈ listedRegs list ↔ bit list r.toNat = true :=
  (mem_listFrom (Nat.le_refl 16) r).trans (and_iff_right r.isLt)

theorem listFrom_ascending {list : BitVec 16} {n : Nat} (hn : n ≤ 16) :
    (listFrom list n).Pairwise fun a b => a.toNat < b.toNat := by
  induction n with
  | zero => exact .nil
  | succ n ih =>
    refine List.pairwise_append.2 ⟨ih (by omega), by split <;> simp, fun a ha b hb => ?_⟩
    obtain ⟨-, rfl⟩ : bit list n = true ∧ b = BitVec.ofNat 4 n := by simpa using hb
    have below := ((mem_listFrom (by omega) a).1 ha).1
    rwa [BitVec.toNat_ofNat, Nat.mod_eq_of_lt (by omega)]

theorem listedRegs_ascending (list : BitVec 16) : (listedRegs list).Pairwise fun a b => a.toNat < b.toNat :=
  listFrom_ascending (Nat.le_refl 16)

theorem length_listFrom (list : BitVec 16) (n : Nat) :
    (listFrom list n).length = (List.range n).countP fun k => bit list k := by
  induction n with
  | zero => rfl
  | succ n ih =>
    rw [listFrom, List.length_append, ih, List.range_succ, List.countP_append, List.countP_singleton]
    split <;> rfl

theorem listedRegs_nodup (list : BitVec 16) : (listedRegs list).Nodup :=
  (listedRegs_ascending list).imp fun lt => ne_of_apply_ne BitVec.toNat (Nat.ne_of_lt lt)

/-- A list with a bit set has a register. -/
theorem listedRegs_ne_nil {list : BitVec 16} (h : list ≠ 0#16) : listedRegs list ≠ [] := by
  intro empty
  refine h (BitVec.eq_of_getLsbD_eq fun i hi => ?_)
  have absent := mt (mem_listedRegs list (BitVec.ofNat 4 i)).2 (empty ▸ List.not_mem_nil)
  rw [BitVec.toNat_ofNat, Nat.mod_eq_of_lt (by omega)] at absent
  simpa using absent

/-- Settles O34: the list by its bits, the addresses as the model's four modes. -/
theorem blockAddresses : Obligations.BlockAddresses := by
  intro list base regs n
  refine ⟨mem_listedRegs list, listedRegs_ascending list, length_listFrom list 16, ?_, rfl, rfl, ?_, rfl, rfl⟩
  · exact BitVec.add_zero base
  · exact BitVec.add_zero (base - n)

/-! ## How a block transfer ends (R198, R200, R201) -/

theorem length_of_loadWords {tr : Bool} {rs : List Reg} {a : Addr} {s t : State} {ws : List (Option Word)}
    (h : loadWords tr rs a s = .done ws t) : ws.length = rs.length := by
  induction rs generalizing a s t ws with
  | nil => cases h; rfl
  | cons r rs ih =>
    have later {u : State} {w : Option Word}
        (h : ((loadWords tr rs (a + 4) u).bind fun ws s => .done (w :: ws) s) = .done ws t) :
        ws.length = rs.length + 1 := by
      revert h
      cases rest : loadWords tr rs (a + 4) u with
      | done ws' v => rintro ⟨⟩; exact congrArg (· + 1) (ih rest)
      | abort v | held v | refused x => exact nofun
    rw [loadWords] at h
    revert h
    cases memRead a tr s with
    | done w u => exact later
    | abort u => exact later
    | held u | refused x => exact nofun

theorem wordsBefore_map_some (ws : List Word) : wordsBefore (ws.map some) = ws := by
  induction ws with
  | nil => rfl
  | cons w ws ih => exact congrArg (w :: ·) ih

theorem wordsBefore_abort (good : List Word) (rest : List (Option Word)) :
    wordsBefore (good.map some ++ none :: rest) = good := by
  induction good with
  | nil => rfl
  | cons w ws ih => exact congrArg (w :: ·) ih

theorem loadedWords_map_some (ws : List Word) : loadedWords (ws.map some) = ws := by
  rw [loadedWords, wordsBefore_map_some, List.length_map, if_pos rfl]

/-- After an abort the word just before it is not moved either (R201). -/
theorem loadedWords_abort (good : List Word) (rest : List (Option Word)) :
    loadedWords (good.map some ++ none :: rest) = good.take (good.length - 1) := by
  rw [loadedWords, wordsBefore_abort, if_neg (by simp)]

/-- The next state of an LDM whose reads were all answered, the last with `last`, leaving the loaded registers in `t`
(R197, R198, R501). -/
def blockLoaded (sb user : Bool) (list : BitVec 16) (last : Word) (t : State) : State :=
  if bit list 15 then wrotePc sb last t
  else if user then { retire (advance t) with hazard := .userBank (retire (advance t)).free }
  else retire (advance t)

theorem finishLoad_eq (sb user : Bool) (list : BitVec 16) (ws : List Word) (t : State) :
    finishLoad sb user list ws t = .next (blockLoaded sb user list (ws.getLast?.getD 0#32) t) := by
  unfold finishLoad blockLoaded
  split
  · cases sb <;> rfl
  · split <;> rfl

/-- The writes of an STM at a legal address, and its write-back (R193, R200). -/
def stmWrites (p u sb w : Bool) (rn : Reg) (list : BitVec 16) (s : State) : Bus Bool :=
  let base := regOrR15 8 0 rn s
  let user := sb && s.psr.mode != .user
  storeWords (modeTranslate s) user (listedRegs list) (blockBase user w rn (blockFinal u list base) s) 0
    (busWord (blockStart p u list base)) s

/-- The reads of an LDM at a legal address, after its write-back (R193, R201). -/
def ldmReads (p u sb w : Bool) (rn : Reg) (list : BitVec 16) (s : State) : Bus (List (Option Word)) :=
  let base := regOrR15 8 0 rn s
  let user := sb && s.psr.mode != .user && !(bit list 15)
  loadWords (modeTranslate s) (listedRegs list) (busWord (blockStart p u list base))
    (applyBase (blockBase user w rn (blockFinal u list base) s) s)

theorem length_of_ldmReads {p u sb w : Bool} {rn : Reg} {list : BitVec 16} {s t : State} {ws : List (Option Word)}
    (h : ldmReads p u sb w rn list s = .done ws t) : ws.length = (listedRegs list).length := by
  rw [ldmReads] at h
  exact length_of_loadWords h

section
variable {c : Cond} {p u sb w : Bool} {rn : Reg} {list : BitVec 16} {s t : State} (hc : condPassed c s.psr = true)
  (hl : list ≠ 0#16) (legal : illegalAddress (blockStart p u list (regOrR15 8 0 rn s)) = false)
include hc hl legal

/-- An STM whose writes are all issued ends by whether one of them aborted. -/
theorem execStm_stored {aborted : Bool} (h : stmWrites p u sb w rn list s = .done aborted t) :
    execStm c p u sb w rn list s = .next (if aborted then enter .dataAbort t else retire (advance t)) := by
  rw [stmWrites] at h
  rw [execStm, conditional_pass hc, if_neg hl]
  dsimp only
  rw [if_neg (ne_true_of_eq_false legal), h, Bus.out_done]
  cases aborted <;> rfl

/-- An LDM whose reads are all issued ends by whether the words it may move are as many as its registers. -/
theorem execLdm_loaded {ws : List (Option Word)} (h : ldmReads p u sb w rn list s = .done ws t) :
    let user := sb && s.psr.mode != .user && !(bit list 15)
    let words := loadedWords ws
    let v := writeLoaded user ((listedRegs list).zip words) 0 t
    let bank := phys (if user then .user else writeBank 4 s) rn
    let base := regOrR15 8 0 rn s
    execLdm c p u sb w rn list s = .next (
      if words.length = (listedRegs list).length then blockLoaded sb user list (words.getLast?.getD 0#32) v
      else enter .dataAbort (if rn ≠ 15#4 ∧ rn ∈ (listedRegs list).take words.length then
        { v with regs := setPhys v.regs bank (if w then blockFinal u list base else base) } else v)) := by
  rw [ldmReads] at h
  dsimp only
  rw [execLdm, conditional_pass hc, if_neg hl]
  dsimp only
  rw [if_neg (ne_true_of_eq_false legal), h, Bus.out_done]
  split
  · exact finishLoad_eq ..
  · simp only [raise, Bool.and_eq_true, bne_iff_ne, List.contains_iff_mem]

/-- An LDM whose reads are all answered moves all the words. -/
theorem execLdm_answered {ws : List Word} (h : ldmReads p u sb w rn list s = .done (ws.map some) t) :
    let user := sb && s.psr.mode != .user && !(bit list 15)
    execLdm c p u sb w rn list s = .next
      (blockLoaded sb user list (ws.getLast?.getD 0#32) (writeLoaded user ((listedRegs list).zip ws) 0 t)) := by
  have all : ws.length = (listedRegs list).length := by simpa using length_of_ldmReads h
  refine (execLdm_loaded hc hl legal h).trans ?_
  rw [loadedWords_map_some, if_pos all]

end

/-- Settles O35: the ends of STM and LDM, with the words moved before an abort fewer than the registers. -/
theorem blockResult : Obligations.BlockResult := by
  intro c p u sb w rn list s t hc hl base start final regs legal
  refine ⟨⟨?stored, ?storeAbort⟩, ?loaded, ?loadAbort⟩
  case stored =>
    intro (writes : stmWrites p u sb w rn list s = .done false t)
    exact execStm_stored hc hl legal writes
  case storeAbort =>
    intro (writes : stmWrites p u sb w rn list s = .done true t)
    exact execStm_stored hc hl legal writes
  case loaded =>
    intro ws _ (reads : ldmReads p u sb w rn list s = .done (ws.map some) t) v last
    exact execLdm_answered hc hl legal reads
  case loadAbort =>
    intro good rest (reads : ldmReads p u sb w rn list s = .done (good.map some ++ none :: rest) t) kept v bank restored
    have fewer : kept.length ≠ (listedRegs list).length := by
      have len := length_of_ldmReads reads
      simp only [List.length_append, List.length_map, List.length_cons] at len
      rw [List.length_take]
      omega
    refine (execLdm_loaded hc hl legal reads).trans ?_
    rw [loadedWords_abort, if_neg fewer]

/-! ## The write-back of the base (R193) -/

@[simp] theorem applyBase_psr (wb : Option (PhysReg × Word)) (s : State) : (applyBase wb s).psr = s.psr := by
  cases wb <;> rfl

@[simp] theorem applyBase_pc (wb : Option (PhysReg × Word)) (s : State) : (applyBase wb s).pc = s.pc := by
  cases wb <;> rfl

@[simp] theorem applyBase_mem (wb : Option (PhysReg × Word)) (s : State) : (applyBase wb s).mem = s.mem := by
  cases wb <;> rfl

@[simp] theorem applyBase_plat (wb : Option (PhysReg × Word)) (s : State) : (applyBase wb s).plat = s.plat := by
  cases wb <;> rfl

@[simp] theorem applyBase_hazard (wb : Option (PhysReg × Word)) (s : State) : (applyBase wb s).hazard = s.hazard := by
  cases wb <;> rfl

@[simp] theorem applyBase_cacheOn (wb : Option (PhysReg × Word)) (s : State) : cacheOn (applyBase wb s) = cacheOn s := by
  cases wb <;> rfl

theorem SameCore.applyBase {s t : State} (h : SameCore s t) (wb : Option (PhysReg × Word)) :
    SameCore (applyBase wb s) (applyBase wb t) := by
  cases wb with
  | none => exact h
  | some x =>
    exact ⟨h.plat, congrArg (setPhys · x.1 x.2) h.regs, h.psr, h.pc, h.hazard, h.afterCdo, h.cp15, h.coprocs, h.inputs,
      h.cut⟩

/-! ## Words of flat memory (R45, R55, R192) -/

theorem Memory.readWord_congr {m n : Memory} {a : Nat} (h : ∀ k, k < 4 → n.read (a + k) = m.read (a + k)) :
    n.readWord a = m.readWord a := by
  have first : n.read a = m.read a := h 0 (by decide)
  simp only [Memory.readWord, first, h 1 (by decide), h 2 (by decide), h 3 (by decide)]

/-- The memory `n` is `m` with the words `ws` from location `loc` on. -/
structure BlockStored (m : Memory) (loc : Nat) (ws : List Word) (n : Memory) : Prop where
  words : ∀ k v, ws[k]? = some v → n.readWord (loc + 4 * k) = v
  outside : ∀ a, a < loc ∨ loc + 4 * ws.length ≤ a → n.read a = m.read a

theorem BlockStored.nil (m : Memory) (loc : Nat) : BlockStored m loc [] m :=
  ⟨nofun, fun _ _ => rfl⟩

/-- The words after the first do not touch it. -/
theorem BlockStored.cons {m n : Memory} (wf : Memory.wf m = true) {loc : Nat} (hl : loc + 3 < 2 ^ 26) {v : Word}
    {ws : List Word} (h : BlockStored (m.writeWord loc v) (loc + 4) ws n) : BlockStored m loc (v :: ws) n := by
  refine ⟨fun k x hk => ?words, fun a ha => ?outside⟩
  case words =>
    cases k with
    | zero =>
      have first : n.readWord loc = (m.writeWord loc v).readWord loc :=
        Memory.readWord_congr fun k hk => h.outside _ (.inl (by omega))
      exact (first.trans (Memory.readWord_writeWord wf hl v)).trans (Option.some.inj hk)
    | succ k =>
      rw [show loc + 4 * (k + 1) = loc + 4 + 4 * k by omega]
      exact h.words k x hk
  case outside =>
    rw [List.length_cons] at ha
    rw [h.outside a (by omega), Memory.read_writeWord_outside wf hl v (by omega)]

theorem toNat_alignWord_ofNat {loc : Nat} (aligned : 4 ∣ loc) (below : loc < 2 ^ 26) :
    (alignWord (BitVec.ofNat 26 loc)).toNat = loc := by
  rw [toNat_alignWord, BitVec.toNat_ofNat, Nat.mod_eq_of_lt below, Nat.mul_div_cancel' aligned]

theorem ofNat_add_four (loc : Nat) : BitVec.ofNat 26 loc + 4 = BitVec.ofNat 26 (loc + 4) :=
  BitVec.ofNat_add loc 4 ▸ rfl

/-- The address of a block as a location. -/
theorem busWord_eq_ofNat (a : Word) : busWord a = BitVec.ofNat 26 (alignWord (busAddress a)).toNat := by
  rw [BitVec.ofNat_toNat, BitVec.setWidth_eq, busWord]

theorem four_dvd_alignWord (a : Addr) : 4 ∣ (alignWord a).toNat := ⟨_, toNat_alignWord a⟩

/-! ## STM to flat memory (R195, R196, R200) -/

theorem SameCore.storedReg {s t : State} (h : SameCore s t) (user : Bool) (k : Nat) (r : Reg) :
    storedReg user k r t = storedReg user k r s := by
  simp only [Machine.storedReg, r15Val, pcAhead, readUser, readReg, readBank, h.regs, h.psr, h.pc, h.hazard]

/-- The words an STM stores for `rs`, the first of them the `k`-th register of its list: the first register is read in
`s`, the others after the write-back (R196). -/
def blockWords (user : Bool) (rs : List Reg) (wb : Option (PhysReg × Word)) (k : Nat) (s : State) : List Word :=
  rs.mapIdx fun j r => storedReg user (k + j) r (if j = 0 then s else applyBase wb s)

theorem blockWords_cons (user : Bool) (r : Reg) (rs : List Reg) (wb : Option (PhysReg × Word)) (k : Nat) (s : State) :
    blockWords user (r :: rs) wb k s = storedReg user k r s :: blockWords user rs none (k + 1) (applyBase wb s) := by
  simp [blockWords, applyBase, Nat.add_assoc, Nat.add_comm 1]

theorem blockWords_of_core {s t : State} (h : SameCore s t) (user : Bool) (rs : List Reg) (k : Nat) :
    blockWords user rs none k t = blockWords user rs none k s := by
  simp only [blockWords, applyBase, ite_self, h.storedReg]

/-- The transfers of an STM to flat memory. -/
theorem storeWords_flat {tr user : Bool} {rs : List Reg} {wb : Option (PhysReg × Word)} (hb : rs = [] → wb = none)
    {k loc : Nat} {s : State} (flat : s.plat.hasMemc = false) (hcut : s.cut = none) (wf : Memory.wf s.mem = true)
    (aligned : 4 ∣ loc) (fits : loc + 4 * rs.length ≤ 2 ^ 26) :
    ∃ t, storeWords tr user rs wb k (BitVec.ofNat 26 loc) s = .done false t ∧ SameCore (applyBase wb s) t ∧
      BlockStored s.mem loc (blockWords user rs wb k s) t.mem := by
  induction rs generalizing wb k loc s with
  | nil =>
    obtain rfl := hb rfl
    exact ⟨s, rfl, .refl s, .nil s.mem loc⟩
  | cons r rs ih =>
    rw [List.length_cons] at fits
    have inBus : loc + 3 < 2 ^ 26 := by omega
    obtain ⟨u, write, core, mem⟩ := memWrite_flat (a := BitVec.ofNat 26 loc) (tr := tr) flat hcut .word
      (storedReg user k r s)
    rw [toNat_alignWord_ofNat aligned (by omega)] at mem
    replace mem : (applyBase wb u).mem = s.mem.writeWord loc (storedReg user k r s) := (applyBase_mem wb u).trans mem
    have based := core.applyBase wb
    obtain ⟨t, rest, core', stored⟩ := ih (wb := none) (k := k + 1) (loc := loc + 4) (s := applyBase wb u)
      (fun _ => rfl) (by rw [applyBase_plat, core.plat, flat]) (by rw [applyBase_cut, core.cut hcut])
      (by rw [mem]; exact Memory.wf_writeWord _ inBus wf) ((Nat.dvd_add_right aligned).2 (Nat.dvd_refl 4)) (by omega)
    refine ⟨t, ?_, based.trans core', ?_⟩
    · rw [storeWords, write, ofNat_add_four]
      exact rest
    · rw [blockWords_cons]
      refine .cons wf inBus ?_
      rw [← mem, ← blockWords_of_core based]
      exact stored

/-- Settles O36: the end of an STM none of whose writes aborts, and the words and the frame of its transfers. -/
theorem stmPlain : Obligations.StmPlain := by
  intro c p u sb w rn list s hc hcut hl flat wf plain base start regs loc user based legal fits
  obtain ⟨t, stores, core, stored⟩ := storeWords_flat (tr := modeTranslate s) (user := user) (k := 0)
    (wb := blockBase user w rn (blockFinal u list base) s) (fun h => absurd h (listedRegs_ne_nil hl)) flat hcut wf
    (four_dvd_alignWord (busAddress start)) fits
  rw [← busWord_eq_ofNat] at stores
  refine ⟨_, execStm_stored hc hl legal stores, core.regs, core.psr.trans (applyBase_psr _ s),
    congrArg (· + 1) (core.pc.trans (applyBase_pc _ s)), fun k r hk => ?_, fun a ha => ?_⟩
  · refine stored.words k _ ?_
    rw [blockWords, List.getElem?_mapIdx, hk, Nat.zero_add]
    rfl
  · exact stored.outside a (by rwa [blockWords, List.length_mapIdx])

/-! ## What the end of an LDM leaves (R198, R501) -/

section
variable (sb user : Bool) (list : BitVec 16) (last : Word) (t : State)

@[simp] theorem blockLoaded_regs : (blockLoaded sb user list last t).regs = t.regs := by
  unfold blockLoaded
  split_ifs <;> rfl

@[simp] theorem blockLoaded_mem : (blockLoaded sb user list last t).mem = t.mem := by
  unfold blockLoaded
  split_ifs <;> rfl

theorem blockLoaded_pc :
    (blockLoaded sb user list last t).pc = if bit list 15 then pcBits last else t.pc + 1 := by
  unfold blockLoaded
  split_ifs <;> rfl

theorem blockLoaded_psr : (blockLoaded sb user list last t).psr =
    if sb = true ∧ bit list 15 = true then writePsr last t.psr else t.psr := by
  unfold blockLoaded
  cases sb <;> split_ifs <;> simp_all [wrotePc]

end

/-- Only a User-bank transfer, which has no R15 in its list, leaves a hazard. -/
theorem blockLoaded_hazard (sb : Bool) {user : Bool} {list : BitVec 16} (h : user = true → bit list 15 = false)
    (last : Word) (t : State) :
    if user then ∃ d, (blockLoaded sb user list last t).hazard = .userBank d
    else (blockLoaded sb user list last t).hazard = .none := by
  unfold blockLoaded
  cases user with
  | true =>
    rw [h rfl]
    exact ⟨_, rfl⟩
  | false => cases bit list 15 <;> rfl

/-! ## LDM from flat memory (R197, R198, R201) -/

/-- The reads of an LDM from flat memory. -/
theorem loadWords_flat {tr : Bool} {rs : List Reg} {loc : Nat} {s : State} (flat : s.plat.hasMemc = false)
    (hcut : s.cut = none) (uncached : cacheOn s = false) (aligned : 4 ∣ loc) (fits : loc + 4 * rs.length ≤ 2 ^ 26) :
    ∃ (ws : List Word) (t : State), loadWords tr rs (BitVec.ofNat 26 loc) s = .done (ws.map some) t ∧ SameStore s t ∧
      ∀ k, k < rs.length → ws[k]? = some (s.mem.readWord (loc + 4 * k)) := by
  induction rs generalizing loc s with
  | nil => exact ⟨[], s, rfl, .refl s, nofun⟩
  | cons r rs ih =>
    rw [List.length_cons] at fits
    have read := memRead_flat (a := BitVec.ofNat 26 loc) (tr := tr) flat hcut uncached
    rw [toNat_alignWord_ofNat aligned (by omega)] at read
    obtain ⟨core, mem⟩ := takeBatch_same s
    obtain ⟨ws, t, rest, same', words⟩ := ih (loc := loc + 4) (s := takeBatch s) (by rw [core.plat, flat])
      (core.cut hcut) (by rwa [cacheOn, core.plat, core.cp15]) ((Nat.dvd_add_right aligned).2 (Nat.dvd_refl 4)) (by omega)
    refine ⟨s.mem.readWord loc :: ws, t, ?_, (takeBatch_same s).trans same', fun k hk => ?_⟩
    · rw [loadWords, read, ofNat_add_four]
      exact congrArg (Bus.bind · _) rest
    · cases k with
      | zero => rfl
      | succ k =>
        rw [List.getElem?_cons_succ, words k (Nat.lt_of_succ_lt_succ hk), mem,
          show loc + 4 * (k + 1) = loc + 4 + 4 * k by omega]

/-- The loaded words go to registers only: what does not depend on the registers stays. -/
theorem writeLoaded_keeps {α : Type} (part : State → α) (other : ∀ s f, part { s with regs := f } = part s) (user : Bool)
    (l : List (Reg × Word)) (k : Nat) (s : State) : part (writeLoaded user l k s) = part s := by
  induction l generalizing s k with
  | nil => rfl
  | cons x l ih =>
    rw [writeLoaded, ih]
    split_ifs
    · rfl
    · exact other s _
    · exact other s _

/-- The register file `f` with each value of `l` in its register of the bank `bank`, R15 left out. -/
def loadBank (bank : Mode) : List (Reg × Word) → RegFile → RegFile
  | [], f => f
  | (r, v) :: l, f => loadBank bank l (if r = 15#4 then f else setPhys f (phys bank r) v)

/-- Outside a hazard the loaded words go to one bank. -/
theorem writeLoaded_regs {s : State} (plain : s.hazard = .none) (user : Bool) (l : List (Reg × Word)) (k : Nat) :
    (writeLoaded user l k s).regs = loadBank (if user then .user else s.psr.mode) l s.regs := by
  induction l generalizing s k with
  | nil => rfl
  | cons x l ih =>
    obtain ⟨r, v⟩ := x
    rw [writeLoaded, loadBank]
    by_cases hr : r = 15#4
    · rw [if_pos hr, if_pos hr, ih plain]
    · rw [if_neg hr, if_neg hr]
      cases user with
      | true => exact ih (s := writeUser r v s) plain (k + 1)
      | false => exact (ih (s := writeReg (32 + k) r v s) plain (k + 1)).trans (by simp [writeBank_plain plain])

theorem getPhys_loadBank_other {bank : Mode} {l : List (Reg × Word)} {q : PhysReg}
    (h : ∀ r, r ∈ l.map Prod.fst → r ≠ 15#4 → q ≠ phys bank r) (f : RegFile) :
    getPhys (loadBank bank l f) q = getPhys f q := by
  induction l generalizing f with
  | nil => rfl
  | cons x l ih =>
    obtain ⟨r, v⟩ := x
    rw [List.map_cons, List.forall_mem_cons] at h
    rw [loadBank, ih h.2]
    split
    · rfl
    · next hr => exact getPhys_setPhys_ne _ _ (h.1 hr)

/-- A register that is listed once holds its word: those after it go elsewhere. -/
theorem getPhys_loadBank_mem {bank : Mode} {l : List (Reg × Word)} (once : (l.map Prod.fst).Nodup) {r : Reg} {v : Word}
    (hx : (r, v) ∈ l) (hr : r ≠ 15#4) (f : RegFile) : getPhys (loadBank bank l f) (phys bank r) = v := by
  induction l generalizing f with
  | nil => cases hx
  | cons y l ih =>
    obtain ⟨fresh, once⟩ := List.nodup_cons.1 once
    rw [loadBank]
    obtain rfl | hx := List.mem_cons.1 hx
    · have later (r' : Reg) (h : r' ∈ l.map Prod.fst) (hr' : r' ≠ 15#4) : phys bank r ≠ phys bank r' := fun e =>
        fresh (phys_inj hr hr' e ▸ h)
      rw [getPhys_loadBank_other later, if_neg hr, getPhys_setPhys_same]
    · exact ih once hx _

/-- Settles O37: the words read, moved to one bank from the state after the write-back, and the three ends of R198. -/
theorem ldmPlain : Obligations.LdmPlain := by
  intro c p u sb w rn list s hc hcut hl flat uncached plain base start regs loc user bank word last based legal fits
  obtain ⟨ws, t, loads, ⟨core, mem⟩, words⟩ := loadWords_flat (tr := modeTranslate s) (s := based)
    (by rw [applyBase_plat, flat]) ((applyBase_cut _ s).trans hcut) (by rw [applyBase_cacheOn, uncached])
    (four_dvd_alignWord (busAddress start)) fits
  rw [← busWord_eq_ofNat] at loads
  rw [applyBase_mem] at words mem
  have len : ws.length = regs.length := by simpa using length_of_loadWords loads
  have nonempty : regs.length ≠ 0 := fun h => listedRegs_ne_nil hl (List.length_eq_zero_iff.1 h)
  have lastWord : ws.getLast?.getD 0#32 = last := by
    rw [List.getLast?_eq_getElem?, len, words _ (by omega)]
    rfl
  have moves {α : Type} (part : State → α) (other : ∀ s f, part { s with regs := f } = part s) :
      part (writeLoaded user (regs.zip ws) 0 t) = part t := writeLoaded_keeps part other user _ 0 t
  have psr : t.psr = s.psr := core.psr.trans (applyBase_psr _ s)
  have hazard : t.hazard = .none := core.hazard.trans ((applyBase_hazard _ s).trans plain)
  have moved : (writeLoaded user (regs.zip ws) 0 t).regs = loadBank bank (regs.zip ws) based.regs := by
    rw [writeLoaded_regs hazard, psr, core.regs]
  have listed : (regs.zip ws).map Prod.fst = regs := List.map_fst_zip len.ge
  refine ⟨_, execLdm_answered hc hl legal loads, ?mem, ?pc, ?psr, blockLoaded_hazard sb ?notPc _ _, ?loaded, ?kept⟩
  case mem => rw [blockLoaded_mem, moves State.mem fun _ _ => rfl, mem]
  case pc => rw [blockLoaded_pc, moves State.pc fun _ _ => rfl, core.pc, applyBase_pc, lastWord]
  case psr => rw [blockLoaded_psr, moves State.psr fun _ _ => rfl, psr, lastWord]
  case notPc => exact fun h => by simpa using (Bool.and_eq_true_iff.1 h).2
  case loaded =>
    intro k r hk hr
    rw [blockLoaded_regs, moved]
    have pair : (r, word k) ∈ regs.zip ws :=
      List.mem_of_getElem? (List.getElem?_zip_eq_some.2 ⟨hk, words k (List.getElem?_eq_some_iff.1 hk).1⟩)
    exact getPhys_loadBank_mem (by rw [listed]; exact listedRegs_nodup list) pair hr based.regs
  case kept =>
    intro q hq
    rw [blockLoaded_regs, moved]
    exact getPhys_loadBank_other (by rwa [listed]) based.regs

end Sys2Proof.Machine
end

section
/-! PROOFS. Swaps (45_swp.md): how SWP and SWPB end, by the answers of the read and of the write, and what they exchange
with flat memory. -/

namespace Sys2Proof.Machine

/-! ## How a swap ends (R213-R217) -/

theorem exec_swp (c : Cond) (rn rd rm : Reg) (s : State) :
    exec (.swp c rn rd rm) s = swap .word loadRotate (fun v => v) c rn rd rm s := rfl

theorem exec_swpb (c : Cond) (rn rd rm : Reg) (s : State) :
    exec (.swpb c rn rd rm) s = swap .byte loadByte repeatByte c rn rd rm s := rfl

/-- The next state of a swap whose accesses ended in `t` and that loaded `old` (R213, R214). -/
def swapped (rd : Reg) (old : Word) (t : State) : State :=
  if rd = 15#4 then retire (jump (pcBits old) t) else retire (advance (writeReg 3 rd old t))

theorem finishSwap_swapped (rd : Reg) (old : Word) (t : State) : finishSwap rd old t = .next (swapped rd old t) := by
  unfold finishSwap swapped
  split <;> rfl

/-- The read of a swap: it goes past the cache (R216). -/
def swapRead (size : Size) (rn : Reg) (s : State) : Bus Word :=
  extRead (swapAddress size (regOrR15 8 0 rn s)) (modeTranslate s) s

/-- The write of a swap that began in `s` and whose read left `t`: address and value are those of `s`. -/
def swapWrite (size : Size) (data : Word → Word) (rn rm : Reg) (s t : State) : Bus Unit :=
  memWrite (swapAddress size (regOrR15 8 0 rn s)) size (data (regOrR15 12 1 rm s)) (modeTranslate s) t

section
variable {size : Size} (extract : Word → Word → Word) {data : Word → Word} {c : Cond} {rn rd rm : Reg} {s t v : State}
  {word : Word} (hc : condPassed c s.psr = true) (hcpu : s.plat.cpu = .cpu020)
include hc hcpu

/-- On CPU-020 a swap whose condition passed checks its address and nothing else (R215, R251). -/
theorem swap_checked : swap size extract data c rn rd rm s =
    if illegalAddress (regOrR15 8 0 rn s) then raise .addressException s
    else (swapRead size rn s).out
      (fun word t => (swapWrite size data rn rm s t).out
        (fun _ v => finishSwap rd (extract (regOrR15 8 0 rn s) word) v) (raise .dataAbort))
      (fun t => (swapWrite size data rn rm s t).out (fun _ v => raise .dataAbort v) (raise .dataAbort)) := by
  rw [swap, conditional_pass hc, if_neg (by rw [hcpu]; decide)]
  rfl

/-- No access is made at an illegal address (R215). -/
theorem swap_illegal (illegal : illegalAddress (regOrR15 8 0 rn s) = true) :
    swap size extract data c rn rd rm s = .next (enter .addressException s) := by
  rw [swap_checked extract hc hcpu, if_pos illegal, raise]

variable (legal : illegalAddress (regOrR15 8 0 rn s) = false)
include legal

/-- A swap both of whose accesses are answered (R214, R217). -/
theorem swap_answered (read : swapRead size rn s = .done word t) (write : swapWrite size data rn rm s t = .done () v) :
    swap size extract data c rn rd rm s = .next (swapped rd (extract (regOrR15 8 0 rn s) word) v) := by
  rw [swap_checked extract hc hcpu, if_neg (ne_true_of_eq_false legal), read, Bus.out_done, write, Bus.out_done,
    finishSwap_swapped]

/-- An abort of the write alone leaves Rd alone (R215). -/
theorem swap_writeAborted (read : swapRead size rn s = .done word t) (write : swapWrite size data rn rm s t = .abort v) :
    swap size extract data c rn rd rm s = .next (enter .dataAbort v) := by
  rw [swap_checked extract hc hcpu, if_neg (ne_true_of_eq_false legal), read, Bus.out_done, write, Bus.out_abort, raise]

/-- After an aborted read the write is issued all the same, and its answer makes no difference (R215; DEDUCED, log 36). -/
theorem swap_readAborted (read : swapRead size rn s = .abort t)
    (write : swapWrite size data rn rm s t = .done () v ∨ swapWrite size data rn rm s t = .abort v) :
    swap size extract data c rn rd rm s = .next (enter .dataAbort v) := by
  rw [swap_checked extract hc hcpu, if_neg (ne_true_of_eq_false legal), read, Bus.out_abort]
  obtain write | write := write
  · rw [write, Bus.out_done, raise]
  · rw [write, Bus.out_abort, raise]

end

/-- Settles O32: the ends of a swap at the addresses of SWP and of SWPB. -/
theorem swapResult : Obligations.SwapResult := by
  intro c rn rd rm s t v word hc hcpu addr value tr after write
  rw [exec_swp, exec_swpb]
  refine ⟨fun illegal => ⟨swap_illegal _ hc hcpu illegal, swap_illegal _ hc hcpu illegal⟩, fun legal =>
    ⟨fun read => ⟨fun written => ?swp, fun aborted => ?swpWriteAborts⟩,
      fun read => ⟨fun written => ?swpb, fun aborted => ?swpbWriteAborts⟩,
      fun read answer => ?swpReadAborts, fun read answer => ?swpbReadAborts⟩⟩
  case swp => exact swap_answered loadRotate hc hcpu legal read written
  case swpWriteAborts => exact swap_writeAborted loadRotate hc hcpu legal read aborted
  case swpb => exact swap_answered loadByte hc hcpu legal read written
  case swpbWriteAborts => exact swap_writeAborted loadByte hc hcpu legal read aborted
  case swpReadAborts => exact swap_readAborted loadRotate hc hcpu legal read answer
  case swpbReadAborts => exact swap_readAborted loadByte hc hcpu legal read answer

/-! ## Flat memory (R45, R55, R212) -/

/-- A swap accesses the aligned word of its address: a word swap puts that address itself on the bus. -/
theorem alignWord_swapAddress (size : Size) (addr : Word) :
    alignWord (swapAddress size addr) = alignWord (busAddress addr) := by
  cases size with
  | byte => rfl
  | word =>
    refine BitVec.eq_of_toNat_eq ?_
    rw [swapAddress, busWord, toNat_alignWord (alignWord _), toNat_alignWord]
    omega

/-- What a store makes of memory depends on memory alone. -/
theorem storeAt_mem_congr {s t : State} (h : t.mem = s.mem) (loc : Nat) (a : Addr) (size : Size) (d : Word) :
    (storeAt loc a size d t).mem = (storeAt loc a size d s).mem := by
  cases size <;> simp only [storeAt, h]

/-- A byte store at an address changes the byte at that address, to the lowest byte of the register (R47). -/
theorem storeAt_byte_read {s : State} (wf : Memory.wf s.mem = true) (addr value : Word) (a : Nat) :
    (storeAt (alignWord (busAddress addr)).toNat (busAddress addr) .byte (repeatByte value) s).mem.read a =
      if a = (busAddress addr).toNat then byteOfWord value 0 else s.mem.read a := by
  rw [← byteOfWord_repeatByte, toNat_busAddress, ← field_busAddress]
  exact Memory.read_write wf _ _ a

section
variable {s : State} (hcut : s.cut = none) (flat : s.plat.hasMemc = false)
include hcut flat

/-- Without MEMC a read past the cache answers the aligned word. -/
theorem extRead_flat (a : Addr) (tr : Bool) :
    extRead a tr s = .done (s.mem.readWord (alignWord a).toNat) (takeBatch s) := by
  rw [extRead, startAccess_uncut hcut, Bus.bind_done, busTarget_flat flat, Bus.bind_done, (takeBatch_same s).2]

/-- A swap with flat memory: Rd receives what memory held, and memory what the store of Rm leaves. -/
theorem swap_flat {c : Cond} {rn rd rm : Reg} (hc : condPassed c s.psr = true) (hcpu : s.plat.cpu = .cpu020)
    (hd : rd ≠ 15#4) (legal : illegalAddress (regOrR15 8 0 rn s) = false) (size : Size) (extract : Word → Word → Word)
    (data : Word → Word) :
    ∃ t, swap size extract data c rn rd rm s = .next t ∧
      (t.psr = s.psr ∧ t.pc = s.pc + 1 ∧
        ∀ q, q ≠ phys (writeBank 3 s) rd → getPhys t.regs q = getPhys s.regs q) ∧
      getPhys t.regs (phys (writeBank 3 s) rd) =
        extract (regOrR15 8 0 rn s) (s.mem.readWord (alignWord (busAddress (regOrR15 8 0 rn s))).toNat) ∧
      t.mem = (storeAt (alignWord (busAddress (regOrR15 8 0 rn s))).toNat (swapAddress size (regOrR15 8 0 rn s)) size
        (data (regOrR15 12 1 rm s)) s).mem := by
  obtain ⟨before, mem₁⟩ := takeBatch_same s
  obtain ⟨v, write, after, mem₂⟩ := memWrite_flat (a := swapAddress size (regOrR15 8 0 rn s)) (tr := modeTranslate s)
    ((congrArg Platform.hasMemc before.plat).trans flat) (before.cut hcut) size (data (regOrR15 12 1 rm s))
  have core : SameCore s v := before.trans after
  refine ⟨_, swap_answered extract hc hcpu legal (extRead_flat hcut flat _ _) write, ?_⟩
  rw [swapped, if_neg hd, ← core.writeBank 3, ← core.regs, ← alignWord_swapAddress size]
  exact ⟨⟨core.psr, congrArg (· + 1) core.pc, fun q hq => getPhys_setPhys_ne _ _ hq⟩, getPhys_setPhys_same _ _ _,
    mem₂.trans (storeAt_mem_congr mem₁ ..)⟩

end

/-- Settles O33: the loaded value is the one before the store, and a read after the store gives the stored one. -/
theorem swapPlain : Obligations.SwapPlain := by
  intro c rn rd rm s hc hcut hcpu flat wf plain hd addr loc value dest rest legal
  rw [exec_swp, exec_swpb]
  have bank : phys (writeBank 3 s) rd = dest := by rw [writeBank_plain plain]
  refine ⟨?swp, ?swpb⟩
  case swp =>
    obtain ⟨t, ht, frame, loaded, mem⟩ := swap_flat hcut flat hc hcpu hd legal .word loadRotate fun v => v
    rw [bank] at frame loaded
    have inBus : loc + 3 < 2 ^ 26 := alignWord_in_bus _
    refine ⟨t, ht, frame, loaded, ?_⟩
    rw [mem]
    exact ⟨Memory.readWord_writeWord wf inBus value, fun a ha => Memory.read_writeWord_outside wf inBus value ha⟩
  case swpb =>
    obtain ⟨t, ht, frame, loaded, mem⟩ := swap_flat hcut flat hc hcpu hd legal .byte loadByte repeatByte
    rw [bank] at frame loaded
    refine ⟨t, ht, frame, ?_, ?_⟩
    · rw [loaded, loadByte, byteOfWord_readWord _ _ (field addr 0 2).isLt, toNat_busAddress]
    · rw [mem]
      have read := storeAt_byte_read wf addr value
      exact ⟨(read _).trans (if_pos rfl), fun a ha => (read a).trans (if_neg ha)⟩

end Sys2Proof.Machine
end

section
/-! PROOFS. SWI (46_swi.md R220, R223): the entry that an undefined instruction and a SWI share, and which of their two
vectors a SWI takes. -/

namespace Sys2Proof.Machine

/-! ## The entry of Supervisor mode by a trap (R450, R451) -/

/-- The state `t` after a trap at the instruction at the PC of `s` to `vector` (R453, R454). -/
structure Trapped (vector : PcWord) (s t : State) : Prop where
  pc : t.pc = vector
  psr : t.psr = { s.psr with i := true, mode := .svc }
  link : getPhys t.regs (.svc 1) = packR15 s.psr (s.pc + 1)
  others : ∀ q, q ≠ .svc 1 → getPhys t.regs q = getPhys s.regs q
  mem : t.mem = s.mem

/-- Both traps enter Supervisor mode, return to the next instruction and leave F. -/
theorem enter_trapped {e : Exc} (he : e = .undefined ∨ e = .swi) (s : State) : Trapped e.vector s (enter e s) := by
  have mode : phys e.mode 14#4 = .svc 1 := by obtain rfl | rfl := he <;> rfl
  have ahead : e.ahead = 4 := by obtain rfl | rfl := he <;> rfl
  refine ⟨enter_pc e s, (enter_trap he (.refl s)).1, ?link, fun q hq => enter_other e s (mode ▸ hq), enter_mem e s⟩
  rw [← mode, enter_link, ahead]
  rfl

/-! ## Which trap a SWI takes (R220, R223, D18) -/

/-- The exception of a SWI: the undefined-instruction trap on CPU-010 directly after an accepted CDO (R223). -/
def swiTrap (s : State) : Exc :=
  if s.plat.cpu = .cpu010 ∧ s.afterCdo = true then .undefined else .swi

theorem swiTrap_cases (s : State) : swiTrap s = .undefined ∨ swiTrap s = .swi := by
  unfold swiTrap
  split
  · exact .inl rfl
  · exact .inr rfl

theorem swiTrap_vector (s : State) :
    (swiTrap s).vector = if s.plat.cpu = .cpu010 ∧ s.afterCdo = true then 1#24 else 2#24 :=
  apply_ite Exc.vector _ _ _

theorem exec_swi_passed {c : Cond} {s : State} (hc : condPassed c s.psr = true) (comment : BitVec 24) :
    exec (.swi c comment) s = .next (enter (swiTrap s) s) := by
  simp only [exec, execSwi, conditional_pass hc, swiTrap]
  split <;> rfl

/-- Settles O20: a SWI enters its trap, and the vector of the trap is 0x4 or 0x8 by the two cases of R223. -/
theorem softwareInterrupt : Obligations.SoftwareInterrupt := by
  intro c k s hc
  obtain ⟨pc, psr, link, others, mem⟩ := enter_trapped (swiTrap_cases s) s
  exact ⟨_, exec_swi_passed hc k, pc.trans (swiTrap_vector s), psr, link, others, mem⟩

end Sys2Proof.Machine
end

section
/-! PROOFS. Coprocessor instructions (47_coprocessor.md): what the answer to the offer makes of each of them, what an
external coprocessor's script gives and records, and how LDC and STC end, with one word of flat memory in particular. -/

namespace Sys2Proof.Machine

/-! ## The answer to an offer (R225-R227) -/

section
variable {num : Reg} {w : Word} {s t : State} {answer : CpAnswer}

theorem handshake_absent (h : offer num w s = (.absent, t)) (commit : State → Out) :
    handshake num w s commit = raise .undefined t := by rw [handshake, h]

theorem handshake_busy (h : offer num w s = (.busy, t)) (commit : State → Out) :
    handshake num w s commit = .next { t with free := t.free + 1 } := by rw [handshake, h]

theorem handshake_ready (h : offer num w s = (.ready, t)) (commit : State → Out) :
    handshake num w s commit = commit t := by rw [handshake, h]

/-- A number that no coprocessor has is answered by nobody. -/
theorem offer_nobody (h : ∀ d, d ∈ s.coprocs → d.num ≠ num) (w : Word) : offer num w s = (.absent, s) := by
  have none : (s.coprocs.find? fun c => c.num = num) = .none := by simpa using h
  simp only [offer, none]

/-- An offer changes what coprocessors were told and will say, and nothing else. -/
theorem offer_leaves (h : offer num w s = (answer, t)) : t = { s with coprocs := t.coprocs } := by
  unfold offer at h
  split at h <;> cases h <;> rfl

theorem takeSupply_psr (num : Reg) (s : State) : (takeSupply num s).2.psr = s.psr :=
  ((Untouched.refl s).takeSupply num).psr

end

/-! ## External coprocessors and coprocessor 15 of CPU-020 (R226, R246, R271) -/

/-- With the condition true, an instruction for an external coprocessor is the handshake with it. -/
theorem exec_external {i : Instr} {cp : Reg} {s : State} (hi : coprocessorOf i = some cp)
    (hc : condPassed i.cond s.psr = true) (external : isInternal cp s = false) :
    ∃ commit, exec i s = handshake cp (encode i) s commit := by
  have outside {inner outer : Out} : (if isInternal cp s then inner else outer) = outer :=
    if_neg (ne_true_of_eq_false external)
  cases i with
  | cdo => cases hi; rw [exec, execCdo]; exact ⟨_, (conditional_pass hc _).trans outside⟩
  | mcr => cases hi; rw [exec, execMcr]; exact ⟨_, (conditional_pass hc _).trans outside⟩
  | mrc => cases hi; rw [exec, execMrc]; exact ⟨_, (conditional_pass hc _).trans outside⟩
  | ldc => cases hi; rw [exec, execLdc]; exact ⟨_, (conditional_pass hc _).trans outside⟩
  | stc => cases hi; rw [exec, execStc]; exact ⟨_, (conditional_pass hc _).trans outside⟩
  | _ => cases hi

theorem isInternal_cp15 {s : State} (hcpu : s.plat.cpu = .cpu020) : isInternal 15#4 s = true := by
  rw [isInternal, hcpu]
  rfl

/-- Settles O39: the answers of the handshake, and the instructions that coprocessor 15 does not offer. -/
theorem coprocAbsentOrBusy : Obligations.CoprocAbsentOrBusy := by
  refine ⟨fun i cp s hi hc external => ?external, fun i s hi hc hcpu refused => ?internal⟩
  case external =>
    obtain ⟨commit, run⟩ := exec_external hi hc external
    rw [run]
    refine ⟨fun nobody => handshake_absent (offer_nobody nobody _) commit,
      fun t absent => handshake_absent absent commit, fun t busy => ⟨_, handshake_busy busy commit, ?_⟩⟩
    rw [offer_leaves busy]
    exact ⟨rfl, rfl, rfl, rfl⟩
  case internal =>
    have inside := isInternal_cp15 hcpu
    cases i with
    | cdo => cases hi; rw [exec, execCdo]; exact (conditional_pass hc _).trans (if_pos inside)
    | ldc => cases hi; rw [exec, execLdc]; exact (conditional_pass hc _).trans (if_pos inside)
    | stc => cases hi; rw [exec, execStc]; exact (conditional_pass hc _).trans (if_pos inside)
    | mcr =>
      have user : s.psr.mode = .user := by simpa using refused
      cases hi
      rw [exec, execMcr]
      exact (conditional_pass hc _).trans ((if_pos inside).trans (if_pos user))
    | mrc =>
      have user : s.psr.mode = .user := by simpa using refused
      cases hi
      rw [exec, execMrc]
      exact (conditional_pass hc _).trans ((if_pos inside).trans (if_pos user))
    | _ => cases hi

/-! ## CDO, MCR and MRC accepted (R228, R234-R237) -/

section
variable {c : Cond} {crn rd cp : Reg} {aux : BitVec 3} {crm : Reg} {s t : State} (hc : condPassed c s.psr = true)
  (external : isInternal cp s = false)
include hc external

theorem exec_cdo_ready {opc : BitVec 4} (ready : offer cp (encode (.cdo c opc crn rd cp aux crm)) s = (.ready, t)) :
    exec (.cdo c opc crn rd cp aux crm) s = .next
      { retire (advance (recordEvent cp (.dataop (encode (.cdo c opc crn rd cp aux crm))) t)) with
        afterCdo := s.plat.cpu == .cpu010 } := by
  rw [exec, execCdo, conditional_pass hc, if_neg (ne_true_of_eq_false external)]
  exact handshake_ready ready _

theorem exec_mcr_ready {opc : BitVec 3} (ready : offer cp (encode (.mcr c opc crn rd cp aux crm)) s = (.ready, t)) :
    exec (.mcr c opc crn rd cp aux crm) s = .next (retire (advance
      (recordEvent cp (.fromCpu (encode (.mcr c opc crn rd cp aux crm)) (regOrR15 12 3 rd s)) t))) := by
  rw [exec, execMcr, conditional_pass hc]
  dsimp only
  rw [if_neg (ne_true_of_eq_false external)]
  exact handshake_ready ready _

theorem exec_mrc_ready {opc : BitVec 3} (ready : offer cp (encode (.mrc c opc crn rd cp aux crm)) s = (.ready, t)) :
    exec (.mrc c opc crn rd cp aux crm) s = finishMrc rd (takeSupply cp t).1
      (recordEvent cp (.toCpu (encode (.mrc c opc crn rd cp aux crm)) (takeSupply cp t).1) (takeSupply cp t).2) := by
  rw [exec, execMrc, conditional_pass hc, if_neg (ne_true_of_eq_false external)]
  exact handshake_ready ready _

end

/-- The end of an MRC: R15 takes the four flags only (R237). -/
theorem finishMrc_eq (rd : Reg) (v : Word) (s : State) :
    finishMrc rd v s = .next (if rd = 15#4 then
        retire (advance { s with psr := s.psr.setFlags (bit v 31) (bit v 30) (bit v 29) (bit v 28) })
      else retire (advance (writeReg 3 rd v s))) := by
  unfold finishMrc
  split <;> rfl

/-- Settles O40: the three commits, and the flags of an MRC to R15 against the PSR that the script left alone. -/
theorem coprocReady : Obligations.CoprocReady := by
  intro c crn rd cp aux crm s t hc external
  refine ⟨fun opc => exec_cdo_ready hc external, fun opc => exec_mcr_ready hc external, fun opc => ?mrc⟩
  intro i v x ready supplied told
  have psr : told.psr = s.psr := by
    have left := takeSupply_psr cp t
    rw [supplied, offer_leaves ready] at left
    exact left
  rw [exec_mrc_ready hc external ready, supplied, finishMrc_eq, ← psr]

/-! ## LDC and STC accepted (R229-R233, R238, R239) -/

/-- The next state of a coprocessor transfer whose accesses left `t`: the base is written back after an abort too (R230,
R238). -/
def coprocTransferred (p w : Bool) (rn : Reg) (modified : Word) (aborted : Bool) (t : State) : State :=
  if aborted then enter .dataAbort (writeBackReg p w rn modified t) else transferred p w rn modified t

theorem finishCoproc_eq (p w : Bool) (rn : Reg) (modified : Word) (aborted : Bool) (t : State) :
    finishCoproc p w rn modified aborted t = .next (coprocTransferred p w rn modified aborted t) := by
  cases aborted with
  | true => rfl
  | false => exact finishTransfer_transferred ..

section
variable {c : Cond} {p u n w : Bool} {rn crd cp : Reg} {off : BitVec 8} {s t t1 t2 : State}
  (hc : condPassed c s.psr = true) (external : isInternal cp s = false)
include hc external

/-- No access is made at an illegal address, but the base is written back (R229). -/
theorem exec_ldc_illegal (ready : offer cp (encode (.ldc c p u n w rn crd cp off)) s = (.ready, t))
    (illegal : illegalAddress (coprocAddress p u rn off s) = true) :
    exec (.ldc c p u n w rn crd cp off) s =
      .next (enter .addressException (writeBackReg p w rn (coprocModified u rn off s) t)) := by
  rw [exec, execLdc, conditional_pass hc, if_neg (ne_true_of_eq_false external)]
  exact (handshake_ready ready _).trans (if_pos illegal)

theorem exec_stc_illegal (ready : offer cp (encode (.stc c p u n w rn crd cp off)) s = (.ready, t))
    (illegal : illegalAddress (coprocAddress p u rn off s) = true) :
    exec (.stc c p u n w rn crd cp off) s =
      .next (enter .addressException (writeBackReg p w rn (coprocModified u rn off s) t)) := by
  rw [exec, execStc, conditional_pass hc, if_neg (ne_true_of_eq_false external)]
  exact (handshake_ready ready _).trans (if_pos illegal)

variable {len : Nat} {aborted : Bool} (legal : illegalAddress (coprocAddress p u rn off s) = false)
  (length : takeLength cp t = (len, t1))
include legal length

/-- An LDC whose reads were all issued, the extra one included. -/
theorem exec_ldc_loaded {v : State} (ready : offer cp (encode (.ldc c p u n w rn crd cp off)) s = (.ready, t))
    (loads : coprocLoad cp (encode (.ldc c p u n w rn crd cp off)) (translateBit p w s) len 0
      (busWord (coprocAddress p u rn off s)) t1 = .done aborted t2)
    (extra : extraRead (translateBit p w s) (busWord (coprocAddress p u rn off s) + BitVec.ofNat 26 (4 * (len + 1))) t2 =
      .done () v) :
    exec (.ldc c p u n w rn crd cp off) s =
      .next (coprocTransferred p w rn (coprocModified u rn off s) aborted v) := by
  rw [exec, execLdc, conditional_pass hc, if_neg (ne_true_of_eq_false external)]
  dsimp only
  rw [handshake_ready ready, if_neg (ne_true_of_eq_false legal), length]
  dsimp only
  rw [loads, Bus.out_done, extra, Bus.out_done, finishCoproc_eq]

/-- An STC whose writes were all issued. -/
theorem exec_stc_stored (ready : offer cp (encode (.stc c p u n w rn crd cp off)) s = (.ready, t))
    (stores : coprocStore cp (encode (.stc c p u n w rn crd cp off)) (translateBit p w s) len 0
      (busWord (coprocAddress p u rn off s)) t1 = .done aborted t2) :
    exec (.stc c p u n w rn crd cp off) s =
      .next (coprocTransferred p w rn (coprocModified u rn off s) aborted t2) := by
  rw [exec, execStc, conditional_pass hc, if_neg (ne_true_of_eq_false external)]
  dsimp only
  rw [handshake_ready ready, if_neg (ne_true_of_eq_false legal), length]
  dsimp only
  rw [stores, Bus.out_done, finishCoproc_eq]

end

/-- Settles O41: the address exception of both, and the end to which the accesses lead. -/
theorem coprocTransfers : Obligations.CoprocTransfers := by
  intro c p u n w rn crd cp off s t t1 t2 len aborted hc external ldc stc addr modified tr ends
  refine ⟨?illegal, fun legal length => ⟨fun ready loads v extra => ?ldc, fun ready stores => ?stc⟩⟩
  case illegal =>
    rintro i (rfl | rfl) ready illegal
    · exact exec_ldc_illegal hc external ready illegal
    · exact exec_stc_illegal hc external ready illegal
  case ldc => exact exec_ldc_loaded hc external legal length ready loads extra
  case stc => exact exec_stc_stored hc external legal length ready stores

/-! ## The script of a fitted coprocessor (R225, R239) -/

/-- What a change of the coprocessor found under a number makes of it, where the change keeps the number. -/
theorem updateCoproc_found {num : Reg} {s : State} {d : Coproc}
    (found : (s.coprocs.find? fun x => x.num = num) = some d) {f : Coproc → Coproc} (hf : ∀ x, (f x).num = x.num) :
    ((updateCoproc num f s).coprocs.find? fun x => x.num = num) = some (f d) := by
  have same : (fun x : Coproc => decide (x.num = num)) ∘ (fun x => if x.num = num then f x else x) =
      fun x => decide (x.num = num) := by
    funext x
    dsimp only [Function.comp]
    split <;> simp only [hf]
  have number : d.num = num := by simpa using List.find?_some found
  rw [updateCoproc_coprocs, List.find?_map, same, found, Option.map_some, if_pos number]

theorem recordEvent_found {num : Reg} {s : State} {d : Coproc}
    (found : (s.coprocs.find? fun x => x.num = num) = some d) (e : CpEvent) :
    ((recordEvent num e s).coprocs.find? fun x => x.num = num) = some { d with log := d.log ++ [e] } :=
  updateCoproc_found found fun _ => rfl

section
variable {num : Reg} {s : State} {d : Coproc} (found : (s.coprocs.find? fun x => x.num = num) = some d)
include found

/-- A fitted coprocessor that answers ready: its answer is used up and the offer recorded. -/
theorem offer_ready (w : Word) (answer : d.answers.head? = some .ready) :
    ∃ fitted, offer num w s = (.ready, { s with coprocs := fitted }) ∧
      (fitted.find? fun x => x.num = num) =
        some { d with answers := d.answers.tail, log := d.log ++ [.offer w (offeredPriv s)] } := by
  refine ⟨_, ?_, updateCoproc_found found (f := fun x =>
    { x with answers := x.answers.tail, log := x.log ++ [.offer w (offeredPriv s)] }) fun _ => rfl⟩
  simp only [offer, found, answer, Option.getD_some]
  rfl

/-- Without a length in its script a coprocessor moves one word. -/
theorem takeLength_one (one : d.lengths = []) : takeLength num s = (0, s) := by
  obtain ⟨_, answers, supply, lengths, log⟩ := d
  cases one
  simp only [takeLength, found]

theorem takeSupply_head {v : Word} (supplied : d.supply.head? = some v) :
    takeSupply num s = (v, updateCoproc num (fun x => { x with supply := x.supply.tail }) s) := by
  obtain ⟨_, answers, supply, lengths, log⟩ := d
  obtain ⟨rest, rfl⟩ := List.head?_eq_some_iff.1 supplied
  simp only [takeSupply, found]

end

/-! ## One word of flat memory (R232, R233, R55) -/

theorem alignWord_busWord (a : Word) : alignWord (busWord a) = alignWord (busAddress a) := alignWord_swapAddress .word a

theorem SameCore.cacheOn {s t : State} (h : SameCore s t) : cacheOn t = cacheOn s := by
  simp only [Machine.cacheOn, h.plat, h.cp15]

/-- After accesses none of which aborted, the end of a transfer changes neither memory, the PSR nor a coprocessor. -/
theorem coprocTransferred_answered (p w : Bool) (rn : Reg) (modified : Word) (t : State) :
    let v := coprocTransferred p w rn modified false t
    v.mem = t.mem ∧ v.psr = t.psr ∧ v.coprocs = t.coprocs := by
  have ends := transferred_ends p w rn modified t
  refine ⟨ends.mem, ?_⟩
  rw [coprocTransferred, if_neg Bool.false_ne_true]
  obtain h | ⟨_, h⟩ := ends <;> rw [h] <;> exact ⟨rfl, rfl⟩

section
variable {num : Reg} {w : Word} {a : Addr} {tr : Bool} {s : State} (hcut : s.cut = none)
  (flat : s.plat.hasMemc = false)
include hcut flat

/-- Whether the processor makes the extra read or not (R239), it finds flat memory and changes nothing. -/
theorem extraRead_flat (uncached : cacheOn s = false) : ∃ t, extraRead tr a s = .done () t ∧ SameStore s t := by
  rw [extraRead, memRead_flat flat hcut uncached]
  split
  · exact ⟨_, rfl, takeBatch_same s⟩
  · exact ⟨_, rfl, .refl s⟩

variable {d : Coproc} (found : (s.coprocs.find? fun x => x.num = num) = some d)
include found

/-- The accesses of an LDC of one word: the coprocessor is told the aligned word. -/
theorem coprocLoad_one_flat (uncached : cacheOn s = false) (beyond : Addr) :
    ∃ t v, coprocLoad num w tr 0 0 a s = .done false t ∧ extraRead tr beyond t = .done () v ∧ v.mem = s.mem ∧
      v.psr = s.psr ∧ (v.coprocs.find? fun x => x.num = num) =
        some { d with log := d.log ++ [.load w 0 (some (s.mem.readWord (alignWord a).toNat))] } := by
  obtain ⟨core, mem⟩ := takeBatch_same s
  rw [← core.coprocs] at found
  have told := recordEvent_found found (.load w 0 (some (s.mem.readWord (alignWord a).toNat)))
  obtain ⟨v, extra, coreExtra, memExtra⟩ := extraRead_flat (a := beyond) (tr := tr)
    (s := recordEvent num (.load w 0 (some (s.mem.readWord (alignWord a).toNat))) (takeBatch s)) (core.cut hcut)
    ((congrArg Platform.hasMemc core.plat).trans flat) (core.cacheOn.trans uncached)
  refine ⟨_, v, ?_, extra, memExtra.trans mem, coreExtra.psr.trans core.psr, by rw [coreExtra.coprocs, told]⟩
  rw [coprocLoad, loadOne, memRead_flat flat hcut uncached]

/-- The word that the coprocessor supplies next is stored at the aligned address. -/
theorem storeOne_flat {v : Word} (supplied : d.supply.head? = some v) (k : Nat) :
    ∃ t, storeOne num w tr k a s = .done false t ∧ t.psr = s.psr ∧
      t.mem = s.mem.writeWord (alignWord a).toNat v := by
  rw [storeOne, takeSupply_head found supplied]
  obtain ⟨t, write, core, mem⟩ := memWrite_flat (a := a) (tr := tr) (s := recordEvent num (.store w k v)
    (updateCoproc num (fun x => { x with supply := x.supply.tail }) s)) flat hcut .word v
  dsimp only
  rw [write]
  exact ⟨t, rfl, core.psr, mem⟩

end

section
variable {c : Cond} {p u n w : Bool} {rn crd cp : Reg} {off : BitVec 8} {s : State} {d : Coproc}
  (hc : condPassed c s.psr = true) (hcut : s.cut = none) (external : isInternal cp s = false)
  (flat : s.plat.hasMemc = false) (found : (s.coprocs.find? fun x => x.num = cp) = some d)
  (answer : d.answers.head? = some .ready) (one : d.lengths = [])
  (legal : illegalAddress (coprocAddress p u rn off s) = false)
include hc hcut external flat found answer one legal

theorem exec_stc_flat {v : Word} (supplied : d.supply.head? = some v) :
    ∃ t, exec (.stc c p u n w rn crd cp off) s = .next t ∧
      t.mem = s.mem.writeWord (alignWord (busAddress (coprocAddress p u rn off s))).toNat v ∧ t.psr = s.psr := by
  obtain ⟨fitted, ready, found⟩ := offer_ready found (encode (.stc c p u n w rn crd cp off)) answer
  have length : takeLength cp { s with coprocs := fitted } = (0, { s with coprocs := fitted }) := takeLength_one found one
  obtain ⟨t, stores, psr, mem⟩ := storeOne_flat (w := encode (.stc c p u n w rn crd cp off))
    (a := busWord (coprocAddress p u rn off s)) (tr := translateBit p w s) (s := { s with coprocs := fitted })
    hcut flat found supplied 0
  obtain ⟨endMem, endPsr, -⟩ := coprocTransferred_answered p w rn (coprocModified u rn off s) t
  rw [alignWord_busWord] at mem
  exact ⟨_, exec_stc_stored hc external legal length ready stores, endMem.trans mem, endPsr.trans psr⟩

theorem exec_ldc_flat (uncached : cacheOn s = false) :
    ∃ t e, exec (.ldc c p u n w rn crd cp off) s = .next t ∧ t.mem = s.mem ∧ t.psr = s.psr ∧
      (t.coprocs.find? fun x => x.num = cp) = some e ∧
      e.log = d.log ++ [.offer (encode (.ldc c p u n w rn crd cp off)) (offeredPriv s),
        .load (encode (.ldc c p u n w rn crd cp off)) 0
          (some (s.mem.readWord (alignWord (busAddress (coprocAddress p u rn off s))).toNat))] := by
  obtain ⟨fitted, ready, found⟩ := offer_ready found (encode (.ldc c p u n w rn crd cp off)) answer
  have length : takeLength cp { s with coprocs := fitted } = (0, { s with coprocs := fitted }) := takeLength_one found one
  obtain ⟨t, v, loads, extra, mem, psr, told⟩ := coprocLoad_one_flat (s := { s with coprocs := fitted })
    (w := encode (.ldc c p u n w rn crd cp off)) (a := busWord (coprocAddress p u rn off s)) (tr := translateBit p w s)
    hcut flat found uncached (busWord (coprocAddress p u rn off s) + BitVec.ofNat 26 (4 * (0 + 1)))
  obtain ⟨endMem, endPsr, endCoprocs⟩ := coprocTransferred_answered p w rn (coprocModified u rn off s) v
  refine ⟨_, _, exec_ldc_loaded hc external legal length ready loads extra, endMem.trans mem, endPsr.trans psr,
    (congrArg (List.find? _) endCoprocs).trans told, ?_⟩
  rw [alignWord_busWord, List.append_assoc]
  rfl

end

/-- Settles O42: the bytes of memory after the word store of STC, and what LDC told the coprocessor after the offer. -/
theorem coprocTransferPlain : Obligations.CoprocTransferPlain := by
  intro c p u n w rn crd cp off s d v hc hcut external flat wf found answer one ldc stc addr loc legal
  refine ⟨fun supplied => ?stc, exec_ldc_flat hc hcut external flat found answer one legal⟩
  have inBus : loc + 3 < 2 ^ 26 := alignWord_in_bus _
  obtain ⟨t, ht, mem, psr⟩ := exec_stc_flat hc hcut external flat found answer one legal supplied
  refine ⟨t, ht, ?_, fun a ha => ?_, psr⟩
  · rw [mem, Memory.readWord_writeWord wf inBus]
  · rw [mem, Memory.read_writeWord_outside wf inBus v ha]

end Sys2Proof.Machine
end

section
/-! PROOFS. What other agents leave alone (51_memc.md R336, 52_vidc.md R386, 53_ioc.md R425): the registers of the three support
chips that only software writes, the held clocks, the peripheral devices, and the cache but for lines that it loses. -/

namespace Sys2Proof.Machine

/-! ## The registers that only software writes -/

/-- MEMC without what its DMA generators move by themselves: the pointers, the sound buffers and the choice of a burst. -/
def Memc.settings (m : Memc) : Memc :=
  { m with vptr := 0, cptr := 0, sptr := 0, sendC := 0, sendN := 0, nextValid := false, cursorNext := false }

/-- VIDC without its FIFOs, timing, requests and sound output. -/
def Vidc.settings (v : Vidc) : Vidc :=
  { v with
    videoFifo := [], cursorFifo := [], soundFifo := [], vcount := 0, oddField := false, dummy := false, flbk := false
    hsync := false, videoWanted := 0, videoTaken := 0, cursorWanted := false, soundWanted := false, soundByte := 0
    soundLatch := 0, channel := 0 }

/-- The latches of a timer that software writes or reads. -/
def Timer.latches (t : Timer) : BitVec 16 × BitVec 16 := (t.inLatch, t.outLatch)

/-- The control register, the masks and the timer latches of IOC. -/
def Ioc.settings (i : Ioc) : BitVec 6 × Bool × Byte × Byte × Byte × Vector (BitVec 16 × BitVec 16) 4 :=
  (i.ctrl, i.wild, i.maskA, i.maskB, i.maskF, i.timers.map Timer.latches)

/-- `t` has these registers, the held clocks and the devices of `s`, and no cache line that `s` has not. -/
structure Undisturbed (s t : State) : Prop where
  memc : t.memc.settings = s.memc.settings
  vidc : t.vidc.settings = s.vidc.settings
  ioc : t.ioc.settings = s.ioc.settings
  held : t.held = s.held
  devices : t.devices = s.devices
  cache : t.cache.Sublist s.cache

theorem Undisturbed.refl (s : State) : Undisturbed s s := ⟨rfl, rfl, rfl, rfl, rfl, .refl _⟩

theorem Undisturbed.trans {s t u : State} (a : Undisturbed s t) (b : Undisturbed t u) : Undisturbed s u :=
  ⟨b.memc.trans a.memc, b.vidc.trans a.vidc, b.ioc.trans a.ioc, b.held.trans a.held, b.devices.trans a.devices,
    b.cache.trans a.cache⟩

/-- A change of the chips that leaves their registers. -/
theorem Undisturbed.chips {s t : State} (hm : t.memc.settings = s.memc.settings)
    (hv : t.vidc.settings = s.vidc.settings) (hi : t.ioc.settings = s.ioc.settings) (held : t.held = s.held)
    (devices : t.devices = s.devices) (cache : t.cache = s.cache) : Undisturbed s t :=
  ⟨hm, hv, hi, held, devices, cache ▸ .refl _⟩

theorem drawWord_undisturbed (s : State) : Undisturbed s (drawWord s).2 := .chips rfl rfl rfl rfl rfl rfl

/-! ## IOC -/

theorem latchEvent_undisturbed (k : Fin 5) (s : State) : Undisturbed s (latchEvent k s) := by
  unfold latchEvent
  dsimp only
  repeat' split
  · exact .chips rfl rfl rfl rfl rfl rfl
  · exact drawWord_undisturbed s
  · exact .chips rfl rfl rfl rfl rfl rfl

theorem sampleEdges_undisturbed (s : State) : Undisturbed s (sampleEdges s) := by
  have sampled (nif ir : Bool) : Undisturbed s { s with ioc := { s.ioc with prevIf := nif, prevIr := ir } } :=
    .chips rfl rfl rfl rfl rfl rfl
  have edge {t : State} (h : Undisturbed s t) (b : Bool) (k : Fin 5) :
      Undisturbed s (if b then latchEvent k t else t) := by
    split
    · exact h.trans (latchEvent_undisturbed k t)
    · exact h
  unfold sampleEdges
  dsimp only
  split
  · exact .chips rfl rfl rfl rfl rfl rfl
  · exact edge (edge (sampled _ _) _ _) _ _

theorem received_undisturbed (b : Byte) (s : State) : Undisturbed s (received b s) := by
  unfold received
  cases s.ioc.rxDoubtful <;> exact .chips rfl rfl rfl rfl rfl rfl

theorem clockRx_undisturbed (s : State) : Undisturbed s (clockRx s) := by
  have clocked (frame : Option (Byte × Nat)) : Undisturbed s { s with ioc := { s.ioc with rx := frame } } :=
    .chips rfl rfl rfl rfl rfl rfl
  unfold clockRx
  split
  · exact .refl s
  · dsimp only
    split
    · exact (clocked _).trans (received_undisturbed _ _)
    · exact clocked _

theorem Ioc.clockTx_settings (i : Ioc) : i.clockTx.settings = i.settings := by
  unfold Ioc.clockTx
  split
  · rfl
  · split <;> rfl

theorem reloadEvent_undisturbed (n : Fin 4) (s : State) : Undisturbed s (reloadEvent n s) := by
  unfold reloadEvent
  repeat' split
  · exact latchEvent_undisturbed 3 s
  · exact latchEvent_undisturbed 4 s
  · exact .chips rfl rfl rfl rfl rfl rfl
  · have sent : Undisturbed s { s with ioc := s.ioc.clockTx } := .chips rfl rfl s.ioc.clockTx_settings rfl rfl rfl
    exact sent.trans (clockRx_undisturbed _)

/-- A timer whose latches stay changes only by counting. -/
theorem setTimer_undisturbed {n : Fin 4} {x : Timer} {s : State} (h : x.latches = s.ioc.timers[n].latches) :
    Undisturbed s (setTimer n x s) := by
  have kept : (s.ioc.timers.set n x).map Timer.latches = s.ioc.timers.map Timer.latches := by
    rw [Vector.map_set, h]
    exact Vector.ext fun i hi => by
      by_cases e : n.val = i
      · subst e; simp
      · simp [Vector.getElem_set_ne, e]
  exact .chips rfl rfl (congrArg (fun l => (s.ioc.ctrl, s.ioc.wild, s.ioc.maskA, s.ioc.maskB, s.ioc.maskF, l)) kept)
    rfl rfl rfl

theorem underflow_undisturbed (n : Fin 4) (s : State) : Undisturbed s (underflow n s) := by
  unfold underflow
  dsimp only
  repeat' split
  · exact (drawWord_undisturbed s).trans (reloadEvent_undisturbed n _)
  · exact drawWord_undisturbed s
  · exact reloadEvent_undisturbed n s

theorem tickTimer_undisturbed (n : Fin 4) (s : State) : Undisturbed s (tickTimer n s) := by
  have counts (counter : BitVec 16) (extra : Bool) :
      Undisturbed s (setTimer n { s.ioc.timers[n] with counter := counter, extra := extra } s) :=
    setTimer_undisturbed rfl
  unfold tickTimer
  dsimp only
  repeat' split
  · exact (counts _ _).trans (underflow_undisturbed n _)
  · exact counts _ _
  · exact (counts _ _).trans (underflow_undisturbed n _)
  · exact counts _ _

theorem separate_undisturbed (s : State) : Undisturbed s (separate s) := .chips rfl rfl rfl rfl rfl rfl

theorem ticks_undisturbed (n : Nat) (s : State) : Undisturbed s (ticks n s) := by
  induction n generalizing s with
  | zero => exact .refl s
  | succ n ih =>
    have ticked : Undisturbed s (tick s) := (((tickTimer_undisturbed 0 s).trans (tickTimer_undisturbed 1 _)).trans
      (tickTimer_undisturbed 2 _)).trans (tickTimer_undisturbed 3 _)
    exact (ticked.trans (separate_undisturbed _)).trans (ih _)

theorem kartFrame_undisturbed (b : Byte) (s : State) : Undisturbed s (kartFrame b s) := by
  unfold kartFrame
  split
  · exact .refl s
  · exact .chips rfl rfl rfl rfl rfl rfl

/-! ## VIDC -/

theorem setFlbk_undisturbed (b : Bool) (s : State) : Undisturbed s (setFlbk b s) := .chips rfl rfl rfl rfl rfl rfl

theorem Vidc.nextRaster_settings (v : Vidc) : v.nextRaster.settings = v.settings := by
  unfold Vidc.nextRaster
  repeat' split
  all_goals rfl

theorem Vidc.askCursor_settings (v : Vidc) : v.askCursor.settings = v.settings := by
  unfold Vidc.askCursor
  split <;> rfl

theorem Vidc.clearInSync_settings (v : Vidc) : v.clearInSync.settings = v.settings := by
  unfold Vidc.clearInSync
  split <;> rfl

theorem Vidc.endSync_settings (v : Vidc) : v.endSync.settings = v.settings := by
  unfold Vidc.endSync
  dsimp only
  split <;> rfl

theorem Vidc.takeVideo_settings (v : Vidc) : v.takeVideo.settings = v.settings := by
  unfold Vidc.takeVideo
  split
  · rfl
  · split <;> rfl

theorem Vidc.takeCursor_settings (v : Vidc) : v.takeCursor.settings = v.settings := by
  unfold Vidc.takeCursor
  split <;> rfl

theorem Vidc.spurious_settings (video cursor sound : Bool) (v : Vidc) :
    (v.spurious video cursor sound).settings = v.settings := by
  unfold Vidc.spurious
  split <;> rfl

theorem Vidc.answerVideo_settings (v : Vidc) : v.answerVideo.settings = v.settings := by
  unfold Vidc.answerVideo
  split <;> rfl

theorem Vidc.answerCursor_settings (v : Vidc) : v.answerCursor.settings = v.settings := by
  unfold Vidc.answerCursor
  split <;> rfl

theorem onVidc_undisturbed {f : Vidc → Vidc} (h : ∀ v, (f v).settings = v.settings) (s : State) :
    Undisturbed s (onVidc f s) := by
  unfold onVidc
  split
  · exact .chips rfl (h s.vidc) rfl rfl rfl rfl
  · exact .refl s

theorem startRaster_undisturbed (s : State) : Undisturbed s (startRaster s) := by
  have started : Undisturbed s { s with vidc := { s.vidc.nextRaster with hsync := true }.askCursor.clearInSync } :=
    .chips rfl ((Vidc.clearInSync_settings _).trans ((Vidc.askCursor_settings _).trans s.vidc.nextRaster_settings))
      rfl rfl rfl rfl
  unfold startRaster
  dsimp only
  repeat' split
  · exact (started.trans (drawWord_undisturbed _)).trans (setFlbk_undisturbed _ _)
  · exact started.trans (setFlbk_undisturbed _ _)
  · exact started.trans (setFlbk_undisturbed _ _)
  · exact started
  · exact .refl s

theorem sinkPulse_undisturbed (s : State) : Undisturbed s (sinkPulse s) := by
  unfold sinkPulse
  split
  · exact .chips rfl (Vidc.clearInSync_settings _) rfl rfl rfl rfl
  · exact .refl s

theorem soundSample_undisturbed (s : State) : Undisturbed s (soundSample s) := by
  unfold soundSample
  dsimp only
  repeat' split
  case isFalse => exact .refl s
  all_goals exact .chips rfl rfl rfl rfl rfl rfl

/-! ## DMA and refresh -/

theorem physWord_undisturbed (pa : Nat) (s : State) : Undisturbed s (physWord pa s).2 := by
  unfold physWord
  split
  · exact .refl s
  · exact drawWord_undisturbed s

theorem physBlock_undisturbed (p : BitVec 15) (s : State) : Undisturbed s (physBlock p s).2 := by
  have read := (((physWord_undisturbed (p.toNat * 16) s).trans (physWord_undisturbed (p.toNat * 16 + 4) _)).trans
    (physWord_undisturbed (p.toNat * 16 + 8) _)).trans (physWord_undisturbed (p.toNat * 16 + 12) _)
  unfold physBlock
  exact read

theorem videoDma_undisturbed (s : State) : Undisturbed s (videoDma s) := by
  have read := physBlock_undisturbed s.memc.vptr s
  unfold videoDma
  split
  · revert read
    generalize physBlock s.memc.vptr s = block
    exact fun read => read.trans (.chips rfl (Vidc.answerVideo_settings _) rfl rfl rfl rfl)
  · exact .refl s

theorem cursorDma_undisturbed (s : State) : Undisturbed s (cursorDma s) := by
  have read := physBlock_undisturbed s.memc.cptr s
  unfold cursorDma
  split
  · revert read
    generalize physBlock s.memc.cptr s = block
    exact fun read => read.trans (.chips rfl (Vidc.answerCursor_settings _) rfl rfl rfl rfl)
  · exact .refl s

theorem Memc.soundNext_settings (m : Memc) : m.soundNext.settings = m.settings := by
  unfold Memc.soundNext
  repeat' split
  all_goals rfl

theorem soundDma_undisturbed (s : State) : Undisturbed s (soundDma s) := by
  have read := physBlock_undisturbed s.memc.sptr s
  unfold soundDma
  split
  · revert read
    generalize physBlock s.memc.sptr s = block
    exact fun read => read.trans (.chips (Memc.soundNext_settings _) rfl rfl rfl rfl rfl)
  · exact .refl s

theorem refreshTick_undisturbed (s : State) : Undisturbed s (refreshTick s) := by
  unfold refreshTick
  split
  · exact .chips rfl rfl rfl rfl rfl rfl
  · exact .refl s

/-! ## Every event -/

theorem applyEvent_undisturbed (e : EnvEvent) (s : State) : Undisturbed s (applyEvent e s) := by
  have fitted {b : Bool} {t : State} (h : Undisturbed s t) : Undisturbed s (if b then t else s) := by
    split
    · exact h
    · exact .refl s
  cases e <;> dsimp only [applyEvent]
  case ticks n => exact fitted (ticks_undisturbed n s)
  case pin | cpuPins | coincide => exact .chips rfl rfl rfl rfl rfl rfl
  case kartFrame b => exact fitted (kartFrame_undisturbed b s)
  case raster => exact fitted (startRaster_undisturbed s)
  case hsyncEnd => exact onVidc_undisturbed Vidc.endSync_settings s
  case soundSample => exact fitted (soundSample_undisturbed s)
  case sink => exact fitted (sinkPulse_undisturbed s)
  case flbkLevel b => exact fitted (setFlbk_undisturbed b s)
  case hsyncLevel b => exact onVidc_undisturbed (fun v => by split <;> rfl) s
  case spuriousRequest video cursor sound => exact onVidc_undisturbed (Vidc.spurious_settings video cursor sound) s
  case videoDma => exact videoDma_undisturbed s
  case cursorDma => exact cursorDma_undisturbed s
  case soundDma => exact soundDma_undisturbed s
  case refreshTick => exact refreshTick_undisturbed s
  case takeVideo => exact onVidc_undisturbed Vidc.takeVideo_settings s
  case takeCursor => exact onVidc_undisturbed Vidc.takeCursor_settings s
  case dropLine => exact ⟨rfl, rfl, rfl, rfl, rfl, List.filter_sublist⟩

theorem chooseBurst_undisturbed (before s : State) : Undisturbed s (chooseBurst before s) := by
  unfold chooseBurst
  split
  · exact .chips rfl rfl rfl rfl rfl rfl
  · exact .refl s

theorem followCinit_undisturbed (s : State) : Undisturbed s (followCinit s) := by
  unfold followCinit
  split
  · exact .chips rfl rfl rfl rfl rfl rfl
  · exact .refl s

theorem applyEvents_undisturbed (es : List EnvEvent) (s : State) : Undisturbed s (applyEvents es s) := by
  induction es generalizing s with
  | nil => exact (followCinit_undisturbed s).trans (separate_undisturbed _)
  | cons e es ih =>
    exact (((applyEvent_undisturbed e s).trans (chooseBurst_undisturbed s _)).trans
      (sampleEdges_undisturbed _)).trans (ih _)

theorem takeBatch_undisturbed (s : State) : Undisturbed s (takeBatch s) := by
  unfold takeBatch
  split
  · exact separate_undisturbed s
  · next rest _ =>
    have taken : Undisturbed s { s with midEvents := rest } := .chips rfl rfl rfl rfl rfl rfl
    exact taken.trans (applyEvents_undisturbed _ _)

end Sys2Proof.Machine
end

section
/-! PROOFS. Induction over the execution of an instruction: a property that the processor's own changes, the accesses and the
writes of coprocessor 15 keep holds in every next state that an instruction answers. -/

namespace Sys2Proof.Machine

/-! ## What a property is closed under -/

/-- Everything but the processor's registers, its record of the coprocessors and the count of free values. -/
def surroundings (s : State) := (s.plat, s.held, s.memc, s.vidc, s.ioc, s.devices, s.midEvents, s.cut, s.mem, s.cache)

/-- `t` differs from `s` only in the processor, and has no more words prefetched. -/
structure ProcessorOnly (s t : State) : Prop where
  around : surroundings t = surroundings s
  pipe : t.pipe.length ≤ s.pipe.length

/-- What keeps `P` while an instruction begun at `s` runs. In User mode every access of it asks for translation (R50), and
coprocessor 15 is out of reach (R271). -/
structure Lasts (s : State) (P : State → Prop) : Prop where
  processor : ∀ {t u}, P t → ProcessorOnly t u → P u
  fetch : ∀ a {tr t}, (s.psr.mode = .user → tr = true) → P t → leaves P (extRead a tr t)
  read : ∀ a {tr t}, (s.psr.mode = .user → tr = true) → P t → leaves P (memRead a tr t)
  write : ∀ a z d {tr t}, (s.psr.mode = .user → tr = true) → P t → leaves P (memWrite a z d tr t)
  cp15 : ∀ crn v {t}, s.psr.mode ≠ .user → P t → leaves P (writeCp15 crn v t)

/-- `P` holds of the next state, where `o` answers one. -/
def EndsIn (P : State → Prop) (o : Out) : Prop := ∀ t, o = .next t → P t

/-! ## Changes of the processor -/

namespace ProcessorOnly

theorem refl (s : State) : ProcessorOnly s s := ⟨rfl, Nat.le_refl _⟩

theorem trans {s t u : State} (a : ProcessorOnly s t) (b : ProcessorOnly t u) : ProcessorOnly s u :=
  ⟨b.around.trans a.around, b.pipe.trans a.pipe⟩

/-- A change that keeps the words prefetched. -/
theorem change {s t : State} (around : surroundings t = surroundings s) (pipe : t.pipe = s.pipe) :
    ProcessorOnly s t := ⟨around, pipe ▸ Nat.le_refl _⟩

theorem advance (s : State) : ProcessorOnly s (retire (advance s)) := ⟨rfl, by simp⟩

theorem jump (target : PcWord) (s : State) : ProcessorOnly s (retire (jump target s)) := ⟨rfl, by simp⟩

theorem enter (e : Exc) (s : State) : ProcessorOnly s (enter e s) := ⟨rfl, by simp⟩

theorem writeBackReg (p w : Bool) (rn : Reg) (v : Word) (s : State) : ProcessorOnly s (writeBackReg p w rn v s) := by
  unfold Machine.writeBackReg
  split
  · exact change rfl rfl
  · exact refl s

theorem writeReg (pos : Nat) (n : Reg) (v : Word) (s : State) : ProcessorOnly s (writeReg pos n v s) := change rfl rfl

theorem applyBase (wb : Option (PhysReg × Word)) (s : State) : ProcessorOnly s (applyBase wb s) := by
  cases wb <;> exact change rfl rfl

theorem writeLoaded (user : Bool) (l : List (Reg × Word)) (k : Nat) (s : State) :
    ProcessorOnly s (writeLoaded user l k s) := by
  induction l generalizing k s with
  | nil => exact refl s
  | cons x l ih =>
    refine trans ?_ (ih (k + 1) _)
    split
    · exact refl s
    · split <;> exact change rfl rfl

theorem offer (num : Reg) (w : Word) (s : State) : ProcessorOnly s (offer num w s).2 := by
  unfold Machine.offer
  split <;> exact change rfl rfl

theorem takeSupply (num : Reg) (s : State) : ProcessorOnly s (takeSupply num s).2 := by
  unfold Machine.takeSupply
  split <;> exact change rfl rfl

theorem takeLength (num : Reg) (s : State) : ProcessorOnly s (takeLength num s).2 := by
  unfold Machine.takeLength
  split <;> exact change rfl rfl

theorem recordEvent (num : Reg) (e : CpEvent) (s : State) : ProcessorOnly s (recordEvent num e s) := change rfl rfl

end ProcessorOnly

/-! ## The ends of an instruction -/

namespace EndsIn

variable {s t : State} {P : State → Prop}

theorem next (h : P t) : EndsIn P (.next t) := by
  rintro u ⟨⟩
  exact h

theorem refused (r : Refusal) : EndsIn P (.refused r) := fun _ h => nomatch h

/-- The end of an instruction after its accesses. -/
theorem out {α : Type} {b : Bus α} {ok : α → State → Out} {bad : State → Out} (hb : leaves P b)
    (hok : ∀ v u, P u → EndsIn P (ok v u)) (hbad : ∀ u, P u → EndsIn P (bad u)) : EndsIn P (b.out ok bad) := by
  cases b with
  | done v u => exact hok v u hb
  | abort u => exact hbad u hb
  | held u => exact next hb
  | refused r => exact refused r

end EndsIn

namespace Lasts

variable {s t : State} {P : State → Prop} (l : Lasts s P)
include l

theorem finish (h : P t) : EndsIn P (finish t) := .next (l.processor h (.advance t))

theorem finishJump (h : P t) (target : PcWord) : EndsIn P (finishJump target t) := .next (l.processor h (.jump target t))

theorem raise (h : P t) (e : Exc) : EndsIn P (raise e t) := .next (l.processor h (.enter e t))

theorem returnTo (h : P t) (v : Word) : EndsIn P (returnTo v t) := by
  refine .next (l.processor h ?_)
  exact (ProcessorOnly.change (s := t) (t := { t with psr := writePsr v t.psr }) rfl rfl).trans (.jump (pcBits v) _)

theorem finishPsr (h : P t) (v : Word) : EndsIn P (finishPsr v t) := by
  refine .next (l.processor h ?_)
  refine (ProcessorOnly.change (s := t) (t := { t with psr := writePsr v t.psr }) rfl rfl).trans
    ((ProcessorOnly.advance _).trans ?_)
  split
  · exact .change rfl rfl
  · exact .refl _

theorem finishTransfer (h : P t) (p w : Bool) (rn : Reg) (modified : Word) :
    EndsIn P (finishTransfer p w rn modified t) := by
  unfold Machine.finishTransfer
  split
  · exact l.finishJump h _
  · exact l.finish h

theorem conditional {run : State → Out} {c : Cond} (h : P s) (hrun : EndsIn P (run s)) :
    EndsIn P (conditional c s run) := by
  intro t ht
  obtain ⟨-, rfl⟩ | ⟨-, ht⟩ := conditional_cases ht
  · exact l.finish h _ rfl
  · exact hrun t ht

/-! ## The instructions without memory access -/

/-- An instruction that goes on after changes of the processor. -/
theorem finish_after (h : P t) {u : State} (hu : ProcessorOnly t u) : EndsIn P (Machine.finish u) :=
  l.finish (l.processor h hu)

theorem dataProcessing (h : P s) (writes : Bool) (alu : Alu) (c : Cond) (sb : Bool) (rn rd : Reg) (op2 : Op2) :
    EndsIn P (dataProcessing writes alu c sb rn rd op2 s) := by
  refine l.conditional h ?_
  dsimp only
  split
  · split
    · split
      · exact l.returnTo h _
      · exact l.finishJump h _
    · split
      · exact l.finishPsr h _
      · exact l.finish h
  · refine l.finish_after h ?_
    cases writes <;> cases sb <;> exact .change rfl rfl

theorem finishMultiply (h : P t) (sb : Bool) (rd : Reg) (result : Word) : EndsIn P (finishMultiply sb rd result t) := by
  refine l.finish_after h ?_
  cases sb <;> exact .change rfl rfl

theorem finish_scrambleFlags (h : P t) (sb : Bool) : EndsIn P (Machine.finish (if sb then scrambleFlags t else t)) := by
  refine l.finish_after h ?_
  cases sb <;> exact .change rfl rfl

theorem execMul (h : P s) (c : Cond) (sb : Bool) (rd rn rs rm : Reg) : EndsIn P (execMul c sb rd rn rs rm s) := by
  refine l.conditional h ?_
  dsimp only
  split
  · exact l.finish_scrambleFlags h sb
  · split <;> exact l.finishMultiply h sb rd _

theorem execMla (h : P s) (c : Cond) (sb : Bool) (rd rn rs rm : Reg) : EndsIn P (execMla c sb rd rn rs rm s) := by
  refine l.conditional h ?_
  dsimp only
  split
  · exact l.finish_scrambleFlags h sb
  · split
    · refine l.finish_after h ?_
      cases sb <;> exact .change rfl rfl
    · exact l.finishMultiply h sb rd _

theorem execBl (h : P s) (c : Cond) (off : BitVec 24) : EndsIn P (execBl c off s) := by
  refine l.conditional h (l.finishJump ?_ _)
  exact l.processor h (.change rfl rfl)

theorem execSwi (h : P s) (c : Cond) (comment : BitVec 24) : EndsIn P (execSwi c comment s) := by
  refine l.conditional h ?_
  split <;> exact l.raise h _

/-! ## Single transfers and swaps -/

omit l in
theorem translated {p w : Bool} (s : State) (hu : s.psr.mode = .user) : translateBit p w s = true := by
  simp [translateBit, hu]

omit l in
theorem modeTranslated (s : State) (hu : s.psr.mode = .user) : modeTranslate s = true := by simp [modeTranslate, hu]

theorem singleLoad (h : P s) (extract : Word → Word → Word) (c : Cond) (p u w : Bool) (rn rd : Reg) (off : Offset) :
    EndsIn P (singleLoad extract c p u w rn rd off s) := by
  refine l.conditional h ?_
  dsimp only
  split
  · exact l.raise h _
  · refine .out (l.read _ (translated s) h) (fun word t ht => ?_) fun t ht => l.raise ht _
    have back := l.processor ht (.writeBackReg p w rn (singleModified u rn off s) t)
    split
    · exact l.finishJump back _
    · exact l.finishTransfer (l.processor back (.writeReg 3 rd _ _)) p w rn _

theorem singleStore (h : P s) (size : Size) (data : Word → Word) (c : Cond) (p u w : Bool) (rn rd : Reg)
    (off : Offset) : EndsIn P (singleStore size data c p u w rn rd off s) := by
  refine l.conditional h ?_
  dsimp only
  split
  · exact l.raise h _
  · refine .out (l.write _ _ _ (translated s) h) (fun _ t ht => ?_) fun t ht => l.raise ht _
    exact l.finishTransfer (l.processor ht (.writeBackReg p w rn _ t)) p w rn _

theorem swap (h : P s) (size : Size) (extract : Word → Word → Word) (data : Word → Word) (c : Cond) (rn rd rm : Reg) :
    EndsIn P (swap size extract data c rn rd rm s) := by
  refine l.conditional h ?_
  dsimp only
  split
  · exact l.raise h _
  · split
    · exact l.raise h _
    · refine .out (l.fetch _ (modeTranslated s) h) (fun word t ht => ?_) fun t ht => ?_
      · refine .out (l.write _ _ _ (modeTranslated s) ht) (fun _ v hv => ?_) fun v hv => l.raise hv _
        unfold finishSwap
        split
        · exact l.finishJump hv _
        · exact l.finish_after hv (.change rfl rfl)
      · exact .out (l.write _ _ _ (modeTranslated s) ht) (fun _ v hv => l.raise hv _) fun v hv => l.raise hv _

/-! ## Block transfers -/

theorem storeWords (h : P t) {tr : Bool} (htr : s.psr.mode = .user → tr = true) (user : Bool) (rs : List Reg)
    (wb : Option (PhysReg × Word)) (k : Nat) (a : Addr) : leaves P (storeWords tr user rs wb k a t) := by
  induction rs generalizing t wb k a with
  | nil => exact h
  | cons r rs ih =>
    have stored := l.write a .word (storedReg user k r t) htr h
    have rest {u : State} (hu : P u) := ih (l.processor hu (.applyBase wb u)) none (k + 1) (a + 4)
    unfold Machine.storeWords
    revert stored
    cases memWrite a .word (storedReg user k r t) tr t with
    | done _ u => exact fun hu => rest hu
    | abort u => exact fun hu => leaves_bind (rest hu) fun _ _ _ hv => hv
    | held u => exact id
    | refused r => exact id

theorem loadWords (h : P t) {tr : Bool} (htr : s.psr.mode = .user → tr = true) (rs : List Reg) (a : Addr) :
    leaves P (loadWords tr rs a t) := by
  induction rs generalizing t a with
  | nil => exact h
  | cons r rs ih =>
    have read := l.read a htr h
    unfold Machine.loadWords
    revert read
    cases memRead a tr t with
    | done w u => exact fun hu => leaves_bind (ih hu (a + 4)) fun _ _ _ hv => hv
    | abort u => exact fun hu => leaves_bind (ih hu (a + 4)) fun _ _ _ hv => hv
    | held u => exact id
    | refused r => exact id

theorem execStm (h : P s) (c : Cond) (p u sb w : Bool) (rn : Reg) (list : BitVec 16) :
    EndsIn P (execStm c p u sb w rn list s) := by
  refine l.conditional h ?_
  split
  · exact .refused _
  · dsimp only
    generalize listedRegs list = regs
    split
    · exact l.raise (l.processor h (.applyBase _ s)) _
    · refine .out (l.storeWords h (modeTranslated s) _ _ _ _ _) (fun aborted t ht => ?_) fun t ht => l.raise ht _
      split
      · exact l.raise ht _
      · exact l.finish ht

theorem finishLoad (h : P t) (sb user : Bool) (list : BitVec 16) (words : List Word) :
    EndsIn P (finishLoad sb user list words t) := by
  unfold Machine.finishLoad
  split
  · dsimp only
    split
    · exact l.returnTo h _
    · exact l.finishJump h _
  · split
    · exact .next (l.processor h ((ProcessorOnly.advance t).trans (.change rfl rfl)))
    · exact l.finish h

theorem execLdm (h : P s) (c : Cond) (p u sb w : Bool) (rn : Reg) (list : BitVec 16) :
    EndsIn P (execLdm c p u sb w rn list s) := by
  refine l.conditional h ?_
  split
  · exact .refused _
  · dsimp only
    generalize listedRegs list = regs
    have based {wb : Option (PhysReg × Word)} := l.processor h (.applyBase wb s)
    split
    · exact l.raise based _
    · refine .out (l.loadWords based (modeTranslated s) _ _) (fun ws t ht => ?_) fun t ht => l.raise ht _
      have loaded {user : Bool} {words : List (Reg × Word)} := l.processor ht (.writeLoaded user words 0 t)
      split
      · exact l.finishLoad loaded sb _ list _
      · refine l.raise ?_ _
        split
        · exact l.processor loaded (.change rfl rfl)
        · exact loaded

/-! ## Coprocessor instructions -/

/-- A handshake ends in the undefined-instruction trap, makes no progress, or commits (R226, R227). -/
theorem handshake (h : P t) (num : Reg) (w : Word) {commit : State → Out} (hc : ∀ u, P u → EndsIn P (commit u)) :
    EndsIn P (handshake num w t commit) := by
  have offered := l.processor h (.offer num w t)
  unfold Machine.handshake
  revert offered
  obtain ⟨answer, u⟩ := offer num w t
  intro hu
  cases answer with
  | absent => exact l.raise hu _
  | busy => exact .next (l.processor hu (.change rfl rfl))
  | ready => exact hc u hu

theorem execCdo (h : P s) (c : Cond) (opc : BitVec 4) (crn crd cp : Reg) (aux : BitVec 3) (crm : Reg) :
    EndsIn P (execCdo c opc crn crd cp aux crm s) := by
  refine l.conditional h ?_
  split
  · exact l.raise h _
  · refine l.handshake h cp _ fun u hu => .next (l.processor hu ?_)
    exact ((ProcessorOnly.recordEvent cp _ u).trans (.advance _)).trans (.change rfl rfl)

theorem execMcr (h : P s) (c : Cond) (opc : BitVec 3) (crn rd cp : Reg) (aux : BitVec 3) (crm : Reg) :
    EndsIn P (execMcr c opc crn rd cp aux crm s) := by
  refine l.conditional h ?_
  dsimp only
  split
  · split
    · exact l.raise h _
    · next privileged =>
      split
      · exact .refused _
      · exact .out (l.cp15 crn _ privileged h) (fun _ t ht => l.finish ht) fun t ht => l.raise ht _
  · exact l.handshake h cp _ fun u hu => l.finish_after hu (.recordEvent cp _ u)

theorem finishMrc (h : P t) (rd : Reg) (v : Word) : EndsIn P (finishMrc rd v t) := by
  unfold Machine.finishMrc
  split <;> exact l.finish_after h (.change rfl rfl)

theorem execMrc (h : P s) (c : Cond) (opc : BitVec 3) (crn rd cp : Reg) (aux : BitVec 3) (crm : Reg) :
    EndsIn P (execMrc c opc crn rd cp aux crm s) := by
  refine l.conditional h ?_
  split
  · split
    · exact l.raise h _
    · split
      · exact .refused _
      · obtain ⟨v, done⟩ | ⟨r, no⟩ := readCp15_cases crn s
        · rw [done]
          exact l.finishMrc h rd v
        · rw [no]
          exact .refused r
  · exact l.handshake h cp _ fun u hu =>
      l.finishMrc (l.processor hu ((ProcessorOnly.takeSupply cp u).trans (.recordEvent cp _ _))) rd _

theorem loadOne (h : P t) {tr : Bool} (htr : s.psr.mode = .user → tr = true) (num : Reg) (w : Word) (k : Nat)
    (a : Addr) : leaves P (loadOne num w tr k a t) := by
  have read := l.read a htr h
  unfold Machine.loadOne
  revert read
  cases memRead a tr t with
  | done v u => exact fun hu => l.processor hu (.recordEvent num _ u)
  | abort u => exact fun hu => l.processor hu (.recordEvent num _ u)
  | held u => exact id
  | refused r => exact id

theorem coprocLoad (h : P t) {tr : Bool} (htr : s.psr.mode = .user → tr = true) (num : Reg) (w : Word) (n k : Nat)
    (a : Addr) : leaves P (coprocLoad num w tr n k a t) := by
  induction n generalizing t k a with
  | zero => exact l.loadOne h htr num w k a
  | succ n ih =>
    exact leaves_bind (l.loadOne h htr num w k a) fun _ u _ hu =>
      leaves_bind (ih hu (k + 1) (a + 4)) fun _ _ _ hv => hv

theorem storeOne (h : P t) {tr : Bool} (htr : s.psr.mode = .user → tr = true) (num : Reg) (w : Word) (k : Nat)
    (a : Addr) : leaves P (storeOne num w tr k a t) := by
  have supplied := l.processor h (.takeSupply num t)
  unfold Machine.storeOne
  revert supplied
  obtain ⟨v, u⟩ := takeSupply num t
  intro hu
  have stored := l.write a .word v htr (l.processor hu (.recordEvent num (.store w k v) u))
  dsimp only
  revert stored
  cases memWrite a .word v tr (recordEvent num (.store w k v) u) <;> exact id

theorem coprocStore (h : P t) {tr : Bool} (htr : s.psr.mode = .user → tr = true) (num : Reg) (w : Word) (n k : Nat)
    (a : Addr) : leaves P (coprocStore num w tr n k a t) := by
  induction n generalizing t k a with
  | zero => exact l.storeOne h htr num w k a
  | succ n ih =>
    exact leaves_bind (l.storeOne h htr num w k a) fun _ u _ hu =>
      leaves_bind (ih hu (k + 1) (a + 4)) fun _ _ _ hv => hv

theorem extraRead (h : P t) {tr : Bool} (htr : s.psr.mode = .user → tr = true) (a : Addr) :
    leaves P (extraRead tr a t) := by
  have read := l.read a htr h
  unfold Machine.extraRead
  split
  · revert read
    cases memRead a tr t with
    | refused r => exact fun _ => h
    | _ => exact id
  · exact h

theorem finishCoproc (h : P t) (p w : Bool) (rn : Reg) (modified : Word) (aborted : Bool) :
    EndsIn P (finishCoproc p w rn modified aborted t) := by
  have back := l.processor h (.writeBackReg p w rn modified t)
  unfold Machine.finishCoproc
  dsimp only
  split
  · exact l.raise back _
  · exact l.finishTransfer back p w rn modified

theorem execLdc (h : P s) (c : Cond) (p u n w : Bool) (rn crd cp : Reg) (off : BitVec 8) :
    EndsIn P (execLdc c p u n w rn crd cp off s) := by
  refine l.conditional h ?_
  split
  · exact l.raise h _
  · refine l.handshake h cp _ fun t ht => ?_
    split
    · exact l.raise (l.processor ht (.writeBackReg p w rn _ t)) _
    · refine .out (l.coprocLoad (l.processor ht (.takeLength cp t)) (translated s) cp _ _ 0 _)
        (fun aborted v hv => ?_) fun v hv => l.raise hv _
      exact .out (l.extraRead hv (translated s) _) (fun _ x hx => l.finishCoproc hx p w rn _ aborted)
        fun x hx => l.raise hx _

theorem execStc (h : P s) (c : Cond) (p u n w : Bool) (rn crd cp : Reg) (off : BitVec 8) :
    EndsIn P (execStc c p u n w rn crd cp off s) := by
  refine l.conditional h ?_
  split
  · exact l.raise h _
  · refine l.handshake h cp _ fun t ht => ?_
    split
    · exact l.raise (l.processor ht (.writeBackReg p w rn _ t)) _
    · exact .out (l.coprocStore (l.processor ht (.takeLength cp t)) (translated s) cp _ _ 0 _)
        (fun aborted v hv => l.finishCoproc hv p w rn _ aborted) fun v hv => l.raise hv _

/-! ## Every instruction -/

/-- The induction: what lasts while an instruction runs holds where it ends. -/
theorem exec (h : P s) (i : Instr) : EndsIn P (exec i s) := by
  cases i <;> dsimp only [Machine.exec]
  case and | eor | sub | rsb | add | adc | sbc | rsc | tst | teq | cmp | cmn | orr | mov | bic | mvn =>
    exact l.dataProcessing h _ _ _ _ _ _ _
  case mul => exact l.execMul h _ _ _ _ _ _
  case mla => exact l.execMla h _ _ _ _ _ _
  case mulSpace => exact l.conditional h (.refused _)
  case swp | swpb => exact l.swap h _ _ _ _ _ _ _
  case ldr | ldrb => exact l.singleLoad h _ _ _ _ _ _ _ _
  case str | strb => exact l.singleStore h _ _ _ _ _ _ _ _ _
  case stm => exact l.execStm h _ _ _ _ _ _ _
  case ldm => exact l.execLdm h _ _ _ _ _ _ _
  case b => exact l.conditional h (l.finishJump h _)
  case bl => exact l.execBl h _ _
  case stc => exact l.execStc h _ _ _ _ _ _ _ _ _
  case ldc => exact l.execLdc h _ _ _ _ _ _ _ _ _
  case cdo => exact l.execCdo h _ _ _ _ _ _ _
  case mcr => exact l.execMcr h _ _ _ _ _ _ _
  case mrc => exact l.execMrc h _ _ _ _ _ _ _
  case swi => exact l.execSwi h _ _
  case undA | undB => exact l.conditional h (l.raise h _)

end Lasts

end Sys2Proof.Machine
end

section
/-! PROOFS. The invariant of the machine (10_state.md R36, 20_memory.md R45, 50_cache_cp15.md R280, 51_memc.md R314): what each
shared operation does to memory, the cache and the translator, and the induction over a boundary that gives the invariant of
every next state. -/

namespace Sys2Proof.Machine

/-! ## The cache and the translator -/

/-- The cache within its size with one line per key (R280), and every translator entry on a logical page (R314). -/
structure TablesWf (s : State) : Prop where
  cache : cacheWf s
  entries : entriesWf s.memc

/-- `t` has the translator of `s`, and no cache line that `s` has not. -/
structure SameTables (s t : State) : Prop where
  cache : t.cache.Sublist s.cache
  entries : t.memc.entries = s.memc.entries
  pageSize : t.memc.pageSize = s.memc.pageSize

theorem SameTables.refl (s : State) : SameTables s s := ⟨.refl _, rfl, rfl⟩

theorem SameTables.trans {s t u : State} (a : SameTables s t) (b : SameTables t u) : SameTables s u :=
  ⟨b.cache.trans a.cache, b.entries.trans a.entries, b.pageSize.trans a.pageSize⟩

/-- A change of neither. -/
theorem SameTables.change {s t : State} (cache : t.cache = s.cache)
    (entries : t.memc.entries = s.memc.entries) (pageSize : t.memc.pageSize = s.memc.pageSize) :
    SameTables s t := ⟨cache ▸ .refl _, entries, pageSize⟩

theorem Undisturbed.sameTables {s t : State} (h : Undisturbed s t) : SameTables s t := by
  have entries := congrArg Memc.entries h.memc
  have pageSize := congrArg Memc.pageSize h.memc
  exact ⟨h.cache, entries, pageSize⟩

theorem cacheWf_of_sublist {s t : State} (h : cacheWf s) (sub : t.cache.Sublist s.cache) : cacheWf t :=
  ⟨sub.length_le.trans h.1, h.2.sublist (sub.map _)⟩

theorem entriesWf_congr {m n : Memc} (h : entriesWf m) (entries : n.entries = m.entries) (size : n.pageSize = m.pageSize) :
    entriesWf n := by
  rw [entriesWf, entries, size]
  exact h

theorem TablesWf.same {s t : State} (h : TablesWf s) (same : SameTables s t) : TablesWf t :=
  ⟨cacheWf_of_sublist h.cache same.cache, entriesWf_congr h.entries same.entries same.pageSize⟩

theorem leaves_tables {α : Type} {s t : State} {b : Bus α} (same : SameTables s t) (h : leaves (SameTables t) b) :
    leaves (SameTables s) b := leaves_mono h fun _ => same.trans

theorem drawWord_tables (s : State) : SameTables s (drawWord s).2 := .change rfl rfl rfl

/-! ## Reads -/

theorem leaves_ite {α : Type} {P : State → Prop} {p : Prop} [Decidable p] {x y : Bus α} (hx : leaves P x)
    (hy : leaves P y) : leaves P (if p then x else y) := by
  split
  · exact hx
  · exact hy

theorem startAccess_tables (s : State) : leaves (SameTables s) (startAccess s) := by
  unfold startAccess
  split
  · exact (takeBatch_undisturbed s).sameTables
  · exact .refl s
  · next n _ =>
    have cut : SameTables s { s with cut := some n } := .change rfl rfl rfl
    exact cut.trans (takeBatch_undisturbed _).sameTables

theorem ramTarget_tables (pa : Nat) (s : State) : leaves (SameTables s) (ramTarget pa s) := by
  unfold ramTarget
  split
  · exact .refl s
  · trivial

theorem logicalTarget_tables (write : Bool) (a : Addr) (tr : Bool) (s : State) :
    leaves (SameTables s) (logicalTarget write a tr s) := by
  unfold logicalTarget
  dsimp only
  split
  · exact .refl s
  · split
    · exact ramTarget_tables _ s
    · exact .refl s
  · split
    · exact drawWord_tables s
    · exact leaves_tables (drawWord_tables s) (ramTarget_tables _ _)

theorem busTarget_tables (write : Bool) (a : Addr) (tr : Bool) (s : State) :
    leaves (SameTables s) (busTarget write a tr s) := by
  have booted : SameTables s (bootStep a s) := .change rfl rfl rfl
  unfold busTarget
  split
  · unfold memcTarget
    dsimp only
    repeat' with_reducible apply leaves_ite
    all_goals first
      | exact booted
      | exact leaves_tables booted (logicalTarget_tables _ _ _ _)
      | exact leaves_tables booted (ramTarget_tables _ _)
  · exact .refl s

theorem readIocRegister_tables (r : BitVec 5) (s : State) : SameTables s (readIocRegister r s).2 := by
  unfold readIocRegister readTimer readIocControl readSerial readNothing
  dsimp only
  repeat' split
  all_goals exact .change rfl rfl rfl

theorem deviceRead_tables (bank : BitVec 3) (type : BitVec 2) (a : Addr) (s : State) :
    SameTables s (deviceRead bank type a s).2 := by
  unfold deviceRead
  dsimp only
  split <;> exact .change rfl rfl rfl

theorem ioRead_tables (a : Addr) (s : State) : leaves (SameTables s) (ioRead a s) := by
  unfold ioRead
  dsimp only
  repeat' split
  · exact .change rfl rfl rfl
  · exact (readIocRegister_tables _ s).trans (drawWord_tables _)
  · exact deviceRead_tables _ _ a s

theorem extRead_tables (a : Addr) (tr : Bool) (s : State) : leaves (SameTables s) (extRead a tr s) := by
  unfold extRead
  refine leaves_bind (startAccess_tables s) fun _ u _ hu => ?_
  refine leaves_bind (leaves_tables hu (busTarget_tables _ a tr u)) fun x t _ ht => ?_
  cases x with
  | io =>
    exact leaves_bind (leaves_tables ht (ioRead_tables a t)) fun _ v _ hv =>
      hv.trans (sampleEdges_undisturbed v).sameTables
  | memory | bootRam | vidc | register | translator => exact ht

/-- A new line takes the place of the one under its key, and of a 257th (R280, R281). -/
theorem insertLine_cacheWf (l : CacheLine) {s : State} (h : cacheWf s) : cacheWf (insertLine l s) := by
  have others := cacheWf_of_sublist (t := { s with cache := s.cache.filter fun x => !(lineMatches l.tag l.space x) }) h
    List.filter_sublist
  have fresh {rest : List CacheLine} (sub : rest.Sublist (s.cache.filter fun x => !(lineMatches l.tag l.space x))) :
      ((l :: rest).map fun x => (x.tag, x.space)).Nodup := by
    refine List.nodup_cons.2 ⟨fun mem => ?_, others.2.sublist (sub.map _)⟩
    obtain ⟨x, hx, key⟩ := List.mem_map.1 mem
    obtain ⟨tag, space⟩ := Prod.mk.inj key
    have kept := (List.mem_filter.1 (sub.subset hx)).2
    simp [lineMatches, tag, space] at kept
  unfold insertLine
  dsimp only
  split
  case isTrue room => exact ⟨room, fresh (.refl _)⟩
  case isFalse =>
    refine ⟨?_, fresh ((List.take_sublist _ _).trans (List.eraseIdx_sublist _ _))⟩
    exact Nat.succ_le_succ (List.length_take_le _ _)

theorem insertLine_tablesWf (l : CacheLine) {s : State} (h : TablesWf s) : TablesWf (insertLine l s) := by
  refine ⟨insertLine_cacheWf l h.cache, ?_⟩
  unfold insertLine
  dsimp only
  split <;> exact h.entries

section
variable {s : State} (h : TablesWf s)
include h

theorem extRead_tablesWf (a : Addr) (tr : Bool) : leaves TablesWf (extRead a tr s) :=
  leaves_mono (extRead_tables a tr s) fun _ => h.same

theorem laterRead_tablesWf (a : Addr) (tr : Bool) : leaves TablesWf (laterRead a tr s) := by
  have read := extRead_tablesWf h a tr
  unfold laterRead
  revert read
  cases extRead a tr s with
  | abort t => exact fun ht => ht.same (drawWord_tables t)
  | done w t | held t | refused r => exact id

theorem memRead_tablesWf (a : Addr) (tr : Bool) : leaves TablesWf (memRead a tr s) := by
  unfold memRead
  repeat' split
  · exact h
  · rw [lineFetch_eq]
    refine leaves_bind (extRead_tablesWf h _ tr) fun _ _ _ h0 => ?_
    refine leaves_bind (laterRead_tablesWf h0 _ tr) fun _ _ _ h1 => ?_
    refine leaves_bind (laterRead_tablesWf h1 _ tr) fun _ _ _ h2 => ?_
    refine leaves_bind (laterRead_tablesWf h2 _ tr) fun _ _ _ h3 => ?_
    exact insertLine_tablesWf _ h3
  · exact extRead_tablesWf h a tr
  · exact extRead_tablesWf h a tr

/-! ## Writes -/

omit h in
theorem freeEntries_wf (code : BitVec 2) (n : Nat) (k : Fin 128) :
    ((freeEntries code n)[k].lpn).toNat < 2 ^ (13 - code.toNat) := by
  have mask : (lpnMask code).toNat < 2 ^ (13 - code.toNat) := by revert code; decide
  simp only [freeEntries, Fin.getElem_fin, Vector.getElem_ofFn, BitVec.toNat_and]
  exact Nat.and_lt_two_pow _ mask

omit h in
theorem freeEntries_entriesWf {m : Memc} {n : Nat} (entries : m.entries = freeEntries m.pageSize n) : entriesWf m := by
  rw [entriesWf, entries]
  exact freeEntries_wf m.pageSize n

/-- A change of the page size gives free entries of that size (R317). -/
theorem setPageSize_tablesWf (code : BitVec 2) : TablesWf (setPageSize code s) := by
  unfold setPageSize
  split
  · exact h
  · exact ⟨h.cache, freeEntries_entriesWf rfl⟩

theorem writeMemcRegister_tablesWf (a : Addr) : leaves TablesWf (writeMemcRegister a s) := by
  have sized := setPageSize_tablesWf h (field a 2 2)
  unfold writeMemcRegister
  dsimp only
  split
  case h_8 =>
    unfold writeMemcControl
    dsimp only
    split <;> exact sized.same (.change rfl rfl rfl)
  all_goals exact h.same (.change rfl rfl rfl)

omit h in
theorem translatorLpn_lt (size : BitVec 2) (a : Addr) : (translatorLpn size a).toNat < 2 ^ (13 - size.toNat) := by
  unfold translatorLpn
  split
  case h_1 => exact BitVec.isLt _
  all_goals
    simp only [BitVec.toNat_append, BitVec.toNat_ofNat, Nat.zero_mod, Nat.zero_shiftLeft, Nat.zero_or]
    rw [← BitVec.toNat_append]
    exact BitVec.isLt _

theorem writeTranslator_tablesWf (a : Addr) : leaves TablesWf (writeTranslator a s) := by
  unfold writeTranslator
  dsimp only
  split
  · trivial
  · refine ⟨h.cache, fun k => ?_⟩
    simp only [Fin.getElem_fin, Vector.getElem_set]
    split
    · exact translatorLpn_lt _ a
    · exact h.entries k

omit h in
theorem ioWrite_tables (a : Addr) (d : Word) (s : State) : leaves (SameTables s) (ioWrite a d s) := by
  unfold ioWrite writeIocRegister writeTimer
  dsimp only
  repeat' split
  all_goals exact .change rfl rfl rfl

omit h in
theorem writeVidc_tables (d : Word) (s : State) : leaves (SameTables s) (writeVidc d s) := by
  unfold writeVidc
  dsimp only
  repeat' split
  · trivial
  · exact .change rfl rfl rfl
  · exact .change rfl rfl rfl

theorem extWrite_tablesWf (a : Addr) (z : Size) (d : Word) (tr : Bool) : leaves TablesWf (extWrite a z d tr s) := by
  unfold extWrite
  refine leaves_bind (leaves_mono (startAccess_tables s) fun _ => h.same) fun _ u _ hu => ?_
  refine leaves_bind (leaves_mono (busTarget_tables _ a tr u) fun _ => hu.same) fun x t _ ht => ?_
  have sampled (v : State) (hv : TablesWf v) : TablesWf (sampleEdges v) := hv.same (sampleEdges_undisturbed v).sameTables
  cases x <;> dsimp only
  case memory => cases z <;> exact ht.same (.change rfl rfl rfl)
  case bootRam => exact ht.same (.change rfl rfl rfl)
  case io => exact leaves_bind (leaves_mono (ioWrite_tables a d t) fun _ => ht.same) fun _ v _ => sampled v
  case vidc =>
    split
    · exact leaves_bind (leaves_mono (writeVidc_tables d t) fun _ => ht.same) fun _ v _ => sampled v
    · exact ht
  case register => exact leaves_bind (writeMemcRegister_tablesWf ht a) fun _ v _ => sampled v
  case translator => exact leaves_bind (writeTranslator_tablesWf ht a) fun _ _ _ hv => hv

omit h in
theorem setLineWord_key (l : CacheLine) (a : Addr) (w : Word) :
    ((setLineWord l a w).tag, (setLineWord l a w).space) = (l.tag, l.space) := by
  unfold setLineWord
  split <;> rfl

/-- A store changes words of lines, never their keys (R286). -/
theorem cacheWrite_tablesWf (a : Addr) (z : Size) (d : Word) (tr aborted : Bool) :
    TablesWf (cacheWrite a z d tr aborted s) := by
  unfold cacheWrite
  repeat' split
  · exact h.same ⟨List.nil_sublist _, rfl, rfl⟩
  · refine ⟨⟨by simpa using h.cache.1, ?_⟩, h.entries⟩
    have keys (l : CacheLine) (w : Word) :
        (fun l : CacheLine => (l.tag, l.space)) (if lineMatches (tagOf a) (spaceOf tr s) l then setLineWord l a w else l) =
          (l.tag, l.space) := by
      split
      · exact setLineWord_key l a w
      · rfl
    rw [List.map_map]
    exact (List.map_congr_left fun l _ => keys l _) ▸ h.cache.2
  · exact h
  · exact h

omit h in
theorem overlapPrefetch_tables (a : Addr) (z : Size) (d : Word) (s : State) : SameTables s (overlapPrefetch a z d s) := by
  unfold overlapPrefetch
  split <;> exact .change rfl rfl rfl

theorem memWrite_tablesWf (a : Addr) (z : Size) (d : Word) (tr : Bool) : leaves TablesWf (memWrite a z d tr s) := by
  have cycle := extWrite_tablesWf h a z d tr
  unfold memWrite
  revert cycle
  cases extWrite a z d tr s with
  | done stored t =>
    intro ht
    dsimp only
    split
    · exact (cacheWrite_tablesWf ht a z d tr false).same (overlapPrefetch_tables a z d _)
    · exact cacheWrite_tablesWf ht a z d tr false
  | abort t => exact fun ht => cacheWrite_tablesWf ht a z d tr true
  | held t => exact id
  | refused r => exact id

end

/-! ## Memory (log 7) -/

theorem Memory.wfFrom_filter (keep : Host.Cell → Bool) {lo : Nat} {m : Memory} (w : Memory.wfFrom lo m = true) :
    Memory.wfFrom lo (m.filter keep) = true := by
  induction m generalizing lo with
  | nil => rfl
  | cons c m ih =>
    obtain ⟨k, b⟩ := c
    simp only [Memory.wfFrom, Bool.and_eq_true, decide_eq_true_eq] at w
    obtain ⟨⟨⟨low, high⟩, listed⟩, rest⟩ := w
    rw [List.filter_cons]
    split
    · simp only [Memory.wfFrom, Bool.and_eq_true, decide_eq_true_eq]
      exact ⟨⟨⟨low, high⟩, listed⟩, ih rest⟩
    · exact Memory.wfFrom_mono (by omega) (ih rest)

theorem isMain_below {p : Platform} {loc : Nat} (h : isMain p loc = true) : loc < 2 ^ 26 := by
  unfold isMain isRam at h
  split at h
  · have size : p.ram.bytes ≤ 0x400000 := by cases p.ram <;> decide
    simp only [Bool.and_eq_true, decide_eq_true_eq] at h
    omega
  · exact of_decide_eq_true h

/-- Free contents of main memory, written over what is left of the rest, are in canonical form. -/
theorem scrambleRam_wf {s : State} (h : Memory.wf s.mem = true) : Memory.wf (scrambleRam s).mem = true := by
  have written (l : List Host.Cell) (m : Memory) (hm : Memory.wf m = true) :
      Memory.wf (l.foldl (fun m c => if isMain s.plat c.1 then Memory.write m c.1 c.2 else m) m) = true := by
    induction l generalizing m with
    | nil => exact hm
    | cons c l ih =>
      refine ih _ ?_
      dsimp only
      split
      · next main => exact Memory.wf_write c.2 (isMain_below main) hm
      · exact hm
  exact written _ _ (Memory.wfFrom_filter _ h)

theorem storeAt_wf {s : State} (h : Memory.wf s.mem = true) {loc : Nat} (hl : loc + 3 < 2 ^ 26) (a : Addr) (z : Size)
    (d : Word) : Memory.wf (storeAt loc a z d s).mem = true := by
  cases z with
  | word => exact Memory.wf_writeWord d hl h
  | byte =>
    have lane := (field a 0 2).isLt
    exact Memory.wf_write _ (by omega) h

theorem extWrite_wf {s : State} (h : Memory.wf s.mem = true) (a : Addr) (z : Size) (d : Word) (tr : Bool) :
    leaves (fun t => Memory.wf t.mem = true) (extWrite a z d tr s) := by
  have kept {β : Type} {t : State} {b : Bus β} (ht : Memory.wf t.mem = true) (hb : leaves (fun u => u.mem = t.mem) b) :
      leaves (fun u => Memory.wf u.mem = true) b := leaves_mono hb fun _ e => e ▸ ht
  unfold extWrite
  refine leaves_bind (leaves_mono (startAccess_same s) fun _ same => same.2 ▸ h) fun _ u _ hu => ?_
  have reach := busTarget_write_reachesBus a tr u
  refine leaves_bind (leaves_mono (busTarget_same true a tr u) fun _ same => same.2 ▸ hu) fun x t hx ht => ?_
  rw [hx] at reach
  cases x <;> dsimp only
  case memory loc => exact storeAt_wf ht reach a z d
  case bootRam => exact scrambleRam_wf ht
  case io => exact kept ht (leaves_bind (ioWrite_mem a d t) fun _ v _ e => (sampleEdges_same v).2.trans e)
  case vidc =>
    split
    · exact kept ht (leaves_bind (writeVidc_mem d t) fun _ v _ e => (sampleEdges_same v).2.trans e)
    · exact ht
  case register => exact kept ht (leaves_bind (writeMemcRegister_mem a t) fun _ v _ e => (sampleEdges_same v).2.trans e)
  case translator => exact kept ht (leaves_bind (writeTranslator_mem a t) fun _ _ _ e => e)

/-! ## The words prefetched -/

theorem overlapPrefetch_length (a : Addr) (z : Size) (d : Word) (s : State) :
    (overlapPrefetch a z d s).pipe.length = s.pipe.length := (overlapPrefetch_overlapped a z d s).1

theorem memWrite_pipe_length (a : Addr) (z : Size) (d : Word) (tr : Bool) (s : State) :
    leaves (fun t => t.pipe.length = s.pipe.length) (memWrite a z d tr s) := by
  have cycle := extWrite_prefetched (p := s.pipe) (s := s) rfl a z d tr
  unfold memWrite
  revert cycle
  cases extWrite a z d tr s with
  | done stored t =>
    intro (ht : t.pipe = s.pipe)
    dsimp only
    split
    · exact (overlapPrefetch_length a z d _).trans (by rw [cacheWrite_pipe, ht])
    · exact congrArg List.length ((cacheWrite_pipe a z d tr false t).trans ht)
  | abort t => exact fun ht => congrArg List.length ((cacheWrite_pipe a z d tr true t).trans ht)
  | held t => exact congrArg List.length
  | refused r => exact fun _ => trivial

/-! ## The invariant without the cut -/

/-- The invariant of the machine, but that an instruction may be cut. -/
structure Canonical (s : State) : Prop where
  mem : Memory.wf s.mem = true
  tables : TablesWf s
  pipe : s.pipe.length ≤ 3

theorem inv_iff (s : State) : Inv s ↔ Canonical s ∧ s.cut = none :=
  ⟨fun ⟨mem, cache, pipe, entries, cut⟩ => ⟨⟨mem, ⟨cache, entries⟩, pipe⟩, cut⟩,
    fun ⟨⟨mem, ⟨cache, entries⟩, pipe⟩, cut⟩ => ⟨mem, cache, pipe, entries, cut⟩⟩

theorem leaves_and {α : Type} {P Q : State → Prop} {b : Bus α} (hp : leaves P b) (hq : leaves Q b) :
    leaves (fun t => P t ∧ Q t) b := by
  cases b with
  | done v t | abort t | held t => exact ⟨hp, hq⟩
  | refused r => trivial

theorem Canonical.access {α : Type} {b : Bus α} (mem : leaves (fun t => Memory.wf t.mem = true) b)
    (tables : leaves TablesWf b) (pipe : leaves (fun t => t.pipe.length ≤ 3) b) : leaves Canonical b :=
  leaves_mono (leaves_and mem (leaves_and tables pipe)) fun _ ⟨m, t, p⟩ => ⟨m, t, p⟩

theorem Canonical.lasts (s : State) : Lasts s Canonical where
  processor {t u} h only := by
    obtain ⟨around, pipe⟩ := only
    simp only [surroundings, Prod.mk.injEq] at around
    obtain ⟨-, -, memc, -, -, -, -, -, mem, cache⟩ := around
    exact ⟨mem ▸ h.mem, h.tables.same (.change cache (by rw [memc]) (by rw [memc])), pipe.trans h.pipe⟩
  fetch a tr t _ h :=
    Canonical.access (leaves_mono (extRead_same a tr t) fun _ same => same.2 ▸ h.mem) (extRead_tablesWf h.tables a tr)
      (leaves_mono (extRead_prefetched rfl a tr) fun _ (e : _ = t.pipe) => e ▸ h.pipe)
  read a tr t _ h :=
    Canonical.access (leaves_mono (memRead_same a tr t) fun _ same => same.2 ▸ h.mem) (memRead_tablesWf h.tables a tr)
      (leaves_mono (memRead_prefetched rfl a tr) fun _ (e : _ = t.pipe) => e ▸ h.pipe)
  write a z d tr t _ h :=
    Canonical.access (memWrite_mem (P := fun m => Memory.wf m = true) (extWrite_wf h.mem a z d tr))
      (memWrite_tablesWf h.tables a z d tr)
      (leaves_mono (memWrite_pipe_length a z d tr t) fun _ e => e ▸ h.pipe)
  cp15 crn v t _ h := by
    unfold writeCp15
    split
    case h_1 => exact ⟨h.mem, h.tables.same ⟨List.nil_sublist _, rfl, rfl⟩, h.pipe⟩
    case h_6 | h_7 => trivial
    all_goals exact ⟨h.mem, h.tables.same (.change rfl rfl rfl), h.pipe⟩

/-! ## A boundary -/

/-- What keeps `P` over a whole boundary: events, changes of the inputs, fetches, and instructions in every mode. -/
structure Persists (P : State → Prop) : Prop where
  lasts : ∀ s, Lasts s P
  fetched : ∀ {t} sl, t.pipe.length < 3 → P t → P { t with pipe := t.pipe ++ [sl] }
  events : ∀ es {t}, P t → P (applyEvents es t)

namespace Persists

variable {P : State → Prop} (persists : Persists P) {s : State}
include persists

theorem fetchSlot (h : P s) (pc : PcWord) : leaves P (fetchSlot pc s) := by
  have read := (persists.lasts s).read (fetchAddress pc) (Lasts.modeTranslated s) h
  unfold Machine.fetchSlot
  dsimp only
  revert read
  cases memRead (fetchAddress pc) (modeTranslate s) s with
  | done w t | abort t | held t => exact id
  | refused r => exact fun _ => h

theorem fetchMore (h : P s) {n : Nat} (room : n = 0 ∨ s.pipe.length + n ≤ 3) : leaves P (fetchMore n s) := by
  induction n generalizing s with
  | zero => exact h
  | succ n ih =>
    have few : s.pipe.length + (n + 1) ≤ 3 := room.resolve_left (Nat.succ_ne_zero n)
    have kept := leaves_and (persists.fetchSlot h (s.pc + BitVec.ofNat 24 s.pipe.length))
      (fetchSlot_prefetched (p := s.pipe) (s := s) rfl (s.pc + BitVec.ofNat 24 s.pipe.length))
    refine leaves_bind (leaves_mono kept fun _ k => k.1) fun sl t ht hp => ?_
    rw [ht] at kept
    have same : t.pipe = s.pipe := kept.2
    have short : t.pipe.length < 3 := by rw [same]; omega
    refine ih (persists.fetched sl short hp) (.inr ?_)
    simp only [List.length_append, List.length_singleton, same]
    omega

theorem fillPipe (h : P s) : leaves P (fillPipe s) := persists.fetchMore h (by omega)

theorem fetchFirst (h : P s) : leaves P (fetchFirst s) := persists.fetchMore h (by omega)

theorem raise (h : P s) (e : Exc) : EndsIn P (raise e s) := (persists.lasts s).raise h e

section
variable {run : Instr → State → Out} (hrun : ∀ i {t}, P t → EndsIn P (run i t))
include hrun

theorem executeHead (h : P s) : EndsIn P (executeHead run s) := by
  unfold Machine.executeHead
  split
  · exact .next h
  · split
    · exact hrun _ h
    · exact persists.raise h _
    · exact .refused _

theorem runBoundary (h : P s) (hideIrq hideFirq : Bool) : EndsIn P (runBoundary run hideIrq hideFirq s) := by
  refine .out (persists.fetchFirst h) (fun _ t ht => ?_) fun _ ht => .next ht
  split
  · exact persists.raise ht _
  · split
    · exact persists.raise ht _
    · exact .out (persists.fillPipe ht) (fun _ u hu => persists.executeHead hrun hu) fun _ hu => .next hu

end

theorem exec (i : Instr) (h : P s) : EndsIn P (exec i s) := (persists.lasts s).exec h i

/-- What is left of an instruction differs from it only in the processor (R491). -/
theorem halfDone (reached : Bool) (i : Instr) {t : State} (h : P t) : P (halfDone reached i s t) := by
  unfold Machine.halfDone
  dsimp only
  split
  · exact (persists.lasts t).processor h (.change rfl rfl)
  · exact h

theorem abandoned (i : Instr) (h : P s) : EndsIn P (abandoned Machine.exec i s) := by
  have ends := persists.exec i h
  unfold Machine.abandoned
  revert ends
  cases Machine.exec i s with
  | next t => exact fun ends => .next (persists.halfDone false i (ends t rfl))
  | fault f => exact fun _ _ no => nomatch no
  | refused r => exact fun _ => .refused r

/-- What a reset leaves of the boundary it falls in, where `P` is also kept as the clocks are released and the instruction
cut. -/
theorem runAbandoned (recut : ∀ {t} held cut, P t → P { t with held := held, cut := cut }) (h : P s) (b : Boundary)
    (abandons : Option Nat) : EndsIn P (runAbandoned Machine.exec b abandons s) := by
  unfold Machine.runAbandoned
  split
  · unfold abandonHeld
    split
    · exact .next (persists.halfDone true _ h)
    · split
      · exact persists.executeHead (fun i _ => persists.abandoned i) (recut none (some 0) h)
      · exact .next h
    · exact .next h
  · next _ n _ => exact persists.runBoundary (fun i _ => persists.abandoned i) (recut _ (some n) h) _ _
  · exact .next h

end Persists

/-! ## Reset (R490-R493) -/

theorem resetMemc_tablesWf {s : State} (h : TablesWf s) : TablesWf (resetMemc s) :=
  (setPageSize_tablesWf h 0#2).same (.change rfl rfl rfl)

theorem powerOn_pageSize (s : State) : (powerOn s).memc.pageSize = s.memc.pageSize := by
  simp only [powerOn, freeMemc, scrambleTranslator, scrambleRam]

/-- After power-on every translator entry is free (R492), on some page of the page size. -/
theorem powerOn_entries (s : State) : (powerOn s).memc.entries = freeEntries s.memc.pageSize (s.free + 1) := by
  simp only [powerOn, freeMemc, scrambleTranslator, scrambleRam]

theorem powerOn_cache (s : State) : (powerOn s).cache = s.cache := by
  simp only [powerOn, scrambleTranslator, scrambleRam]

theorem powerOn_mem (s : State) : (powerOn s).mem = (scrambleRam s).mem := by
  simp only [powerOn, scrambleTranslator]

theorem powerOn_plat (s : State) : (powerOn s).plat = s.plat := by
  simp only [powerOn, scrambleTranslator, scrambleRam]

theorem powerOn_pipe (s : State) : (powerOn s).pipe = s.pipe := by
  simp only [powerOn, scrambleTranslator, scrambleRam]

theorem powerOn_canonical {s : State} (h : Canonical s) : Canonical (powerOn s) where
  mem := by
    rw [powerOn_mem]
    exact scrambleRam_wf h.mem
  tables := by
    refine ⟨?_, freeEntries_entriesWf (n := s.free + 1) ?_⟩
    · rw [cacheWf, powerOn_cache]
      exact h.tables.cache
    · rw [powerOn_entries, powerOn_pageSize]
  pipe := by
    rw [powerOn_pipe]
    exact h.pipe

/-- What is there before a reset resets it: after power-on everything without a value is free. -/
def resetStart (kind : ResetKind) (s : State) : State := if kind = .powerOn then powerOn s else s

theorem resetStart_canonical {s : State} (h : Canonical s) (kind : ResetKind) : Canonical (resetStart kind s) := by
  unfold resetStart
  split
  · exact powerOn_canonical h
  · exact h

theorem resetStart_plat (kind : ResetKind) (s : State) : (resetStart kind s).plat = s.plat := by
  unfold resetStart
  split
  · exact powerOn_plat s
  · rfl

/-- The state of a system reset before the edge detectors look at their pins. -/
def resetEntry (kind : ResetKind) (s : State) : State :=
  let t := resetIoc kind (resetMemc (resetStart kind s))
  enterWith .reset (Config.freeWord t.free 5400)
    { t with
      held := none
      cut := none
      cache := []
      cp15 := ⟨0, Config.freeWord t.free 5401, Config.freeWord t.free 5402, Config.freeWord t.free 5403⟩ }

theorem systemReset_eq (kind : ResetKind) (s : State) :
    systemReset kind s =
      if kind = .powerOn then primeEdges (resetEntry kind s) else sampleEdges (resetEntry kind s) := rfl

theorem resetMemc_core (s : State) : SameCore s (resetMemc s) :=
  (setPageSize_core 0#2 s).trans ⟨rfl, rfl, rfl, rfl, rfl, rfl, rfl, rfl, rfl, id⟩

theorem resetMemc_mem (s : State) : (resetMemc s).mem = s.mem := setPageSize_mem 0#2 s

theorem resetEntry_canonical {s : State} (h : Canonical s) (kind : ResetKind) : Canonical (resetEntry kind s) := by
  have start := resetStart_canonical h kind
  have entries := (resetMemc_tablesWf start.tables).entries
  have mem := resetMemc_mem (resetStart kind s) ▸ start.mem
  unfold resetEntry resetIoc
  revert entries mem
  generalize resetMemc (resetStart kind s) = t
  exact fun entries mem => ⟨mem, ⟨⟨Nat.zero_le _, .nil⟩, entries⟩, Nat.zero_le _⟩

theorem systemReset_same (kind : ResetKind) (s : State) : SameStore (resetEntry kind s) (systemReset kind s) := by
  rw [systemReset_eq]
  split
  · exact ⟨⟨rfl, rfl, rfl, rfl, rfl, rfl, rfl, rfl, rfl, id⟩, rfl⟩
  · exact sampleEdges_same _

theorem systemReset_undisturbed (kind : ResetKind) (s : State) : Undisturbed (resetEntry kind s) (systemReset kind s) := by
  rw [systemReset_eq]
  split
  · exact .chips rfl rfl rfl rfl rfl rfl
  · exact sampleEdges_undisturbed _

theorem systemReset_pipe (kind : ResetKind) (s : State) : (systemReset kind s).pipe = [] := by
  rw [systemReset_eq]
  split
  · rfl
  · exact sampleEdges_pipe _

/-- A reset gives a state in canonical form, and ends every abandoned instruction. -/
theorem systemReset_canonical {s : State} (h : Canonical s) (kind : ResetKind) : Canonical (systemReset kind s) where
  mem := (systemReset_same kind s).2 ▸ (resetEntry_canonical h kind).mem
  tables := (resetEntry_canonical h kind).tables.same (systemReset_undisturbed kind s).sameTables
  pipe := by
    rw [systemReset_pipe]
    exact Nat.zero_le 3

theorem systemReset_cut (kind : ResetKind) (s : State) : (systemReset kind s).cut = none :=
  (systemReset_same kind s).1.cut rfl

theorem systemReset_plat (kind : ResetKind) (s : State) : (systemReset kind s).plat = s.plat := by
  have sized : (resetMemc (resetStart kind s)).plat = s.plat := (resetMemc_core _).plat.trans (resetStart_plat kind s)
  rw [(systemReset_same kind s).1.plat, ← sized]
  rfl

/-! ## A step -/

/-- Everything a step can end with: `P` lasts over a boundary, or a reset ends what `Q` is kept by. -/
theorem step_cases {P Q : State → Prop} (p : Persists P) (q : Persists Q)
    (recut : ∀ {t} held cut, Q t → Q { t with held := held, cut := cut }) {s t : State} (hp : P s) (hq : Q s)
    (h : step s = .next t) : P t ∨ ∃ kind u, Q u ∧ t = systemReset kind u := by
  unfold step stepWith at h
  split at h
  · split at h
    · cases h
    · exact .inl (p.runBoundary (fun i _ => p.exec i) hp _ _ t h)
  · next b rest _ =>
    have begun {R : State → Prop} (r : Persists R) (hr : R s) : R (applyEvents b.events { s with inputs := rest }) :=
      r.events _ ((r.lasts s).processor hr (.change rfl rfl))
    dsimp only at h
    split at h
    · next input _ =>
      have ends := q.runAbandoned recut (begun q hq) b input.abandons
      unfold takeReset at h
      split at h
      · cases h
      · split at h
        · next u hu =>
          cases h
          exact .inr ⟨_, u, ends u hu, rfl⟩
        · cases h
        · cases h
    · cases h
      exact .inl (begun p hp)
    · exact .inl (p.runBoundary (fun i _ => p.exec i) (begun p hp) _ _ t h)

theorem Canonical.persists : Persists Canonical where
  lasts := Canonical.lasts
  fetched sl short h := ⟨h.mem, h.tables.same (.change rfl rfl rfl), by simpa using short⟩
  events es t h :=
    ⟨(applyEvents_same es t).2 ▸ h.mem, h.tables.same (applyEvents_undisturbed es t).sameTables,
      (applyEvents_pipe es t) ▸ h.pipe⟩

/-- What depends on nothing that a processor keeps through its accesses, and not on coprocessor 15. -/
theorem Persists.of_core {P : State → Prop} (core : ∀ {s t}, P s → SameCore s t → P t)
    (processor : ∀ {s t}, P s → t.plat = s.plat → t.cut = s.cut → P t) : Persists P where
  lasts s :=
    { processor := fun h only => by
        obtain ⟨around, -⟩ := only
        simp only [surroundings, Prod.mk.injEq] at around
        obtain ⟨plat, -, -, -, -, -, -, cut, -⟩ := around
        exact processor h plat cut
      fetch := fun a {tr t} _ h => leaves_mono (extRead_same a tr t) fun _ same => core h same.1
      read := fun a {tr t} _ h => leaves_mono (memRead_same a tr t) fun _ same => core h same.1
      write := fun a z d {tr t} _ h => leaves_mono (memWrite_core a z d tr t) fun _ same => core h same
      cp15 := fun crn v {t} _ h => by
        obtain ⟨cp15, cache, done⟩ | ⟨r, no⟩ := writeCp15_cases crn v t
        · rw [done]
          exact processor h rfl rfl
        · rw [no]
          trivial }
  fetched _ _ h := processor h rfl rfl
  events es t h := core h (applyEvents_same es t).1

theorem plat_persists (p : Platform) : Persists (fun s => s.plat = p) :=
  .of_core (fun h same => same.plat.trans h) fun h plat _ => plat.trans h

theorem uncut_persists : Persists (fun s => s.cut = none) :=
  .of_core (fun h same => same.cut h) fun h _ cut => cut.trans h

/-- Settles O57: the canonical form and the absence of a cut last over a boundary, and a reset gives both. -/
theorem invStep : Obligations.InvStep := by
  refine ⟨fun s t inv h => ?_, fun s t h => ?_⟩
  · obtain ⟨canonical, uncut⟩ := (inv_iff s).1 inv
    rw [inv_iff]
    obtain ht | ⟨kind, u, hu, rfl⟩ := step_cases Canonical.persists Canonical.persists
      (fun _ _ h => ⟨h.mem, h.tables.same (.change rfl rfl rfl), h.pipe⟩) canonical canonical h
    · obtain cut | ⟨kind, u, -, rfl⟩ := step_cases uncut_persists Canonical.persists
        (fun _ _ h => ⟨h.mem, h.tables.same (.change rfl rfl rfl), h.pipe⟩) uncut canonical h
      · exact ⟨ht, cut⟩
      · exact ⟨ht, systemReset_cut kind u⟩
    · exact ⟨systemReset_canonical hu kind, systemReset_cut kind u⟩
  · have kept := plat_persists s.plat
    obtain ht | ⟨kind, u, hu, rfl⟩ := step_cases kept kept (fun _ _ h => h) rfl rfl h
    · exact ht
    · exact (systemReset_plat kind u).trans hu

end Sys2Proof.Machine
end

section
/-! PROOFS. User mode behind MEMC (51_memc.md R303, R305, R340): every access of a User-mode instruction is decoded to memory or
aborted, so nothing of the three chips that software writes, of the held clocks and of the devices can change. -/

namespace Sys2Proof.Machine

/-! ## What a User-mode access reaches -/

/-- The support chips, the platform and what moves them, without the marks of the last access. -/
def chipState (s : State) := (s.plat, s.memc, s.vidc, (separate s).ioc, s.midEvents, s.held, s.devices, s.ioc.settings)

theorem surroundings_chipState {s t : State} (h : surroundings t = surroundings s) : chipState t = chipState s := by
  simp only [surroundings, Prod.mk.injEq] at h
  obtain ⟨plat, held, memc, vidc, ioc, devices, midEvents, -⟩ := h
  simp only [chipState, separate, plat, held, memc, vidc, ioc, devices, midEvents]

/-- The answer of a decode that reaches no chip: memory, an abort or a refusal, with the chips as they were. -/
def ReachesNoChip (s : State) (b : Bus Target) : Prop :=
  match b with
  | .done (.memory _) t => chipState t = chipState s
  | .abort t => chipState t = chipState s
  | .refused _ => True
  | _ => False

theorem ramTarget_reachesNoChip {s t : State} (h : chipState t = chipState s) (pa : Nat) :
    ReachesNoChip s (ramTarget pa t) := by
  unfold ramTarget
  split
  · exact h
  · trivial

theorem logicalTarget_reachesNoChip {s t : State} (h : chipState t = chipState s) (write : Bool) (a : Addr) (tr : Bool) :
    ReachesNoChip s (logicalTarget write a tr t) := by
  unfold logicalTarget
  dsimp only
  split
  · exact h
  · split
    · exact ramTarget_reachesNoChip h _
    · exact h
  · split
    · exact h
    · exact ramTarget_reachesNoChip (t := (drawWord t).2) h _

section
variable {s : State} (memc : s.plat.hasMemc = true) (normal : s.memc.boot = .normal)
include memc normal

/-- Past the boot states every translated access is decoded to memory or aborted (R303, R305). -/
theorem busTarget_user (write : Bool) (a : Addr) : ReachesNoChip s (busTarget write a true s) := by
  have boot : (bootStep a s).memc = s.memc := by
    have kept : bootNext a s.memc.boot = s.memc.boot := by rw [normal]; rfl
    simp only [bootStep, kept]
  have booted : chipState (bootStep a s) = chipState s := by
    simp only [chipState, boot]
    rfl
  have past : ¬ (bootStep a s).memc.boot ≠ .normal := by rw [boot]; exact not_not_intro normal
  unfold busTarget
  rw [if_pos memc]
  unfold memcTarget
  simp only [past, false_and, if_false, Bool.not_true, Bool.false_eq_true, Bool.not_false, if_true]
  split
  · exact logicalTarget_reachesNoChip booted _ _ _
  · repeat' split
    all_goals exact booted

end

/-! ## What a User-mode instruction keeps -/

/-- The platform, the registers of the chips that only software writes, the held clocks and the devices. -/
def chipSettings (s : State) := (s.plat, s.memc.settings, s.vidc.settings, s.ioc.settings, s.held, s.devices)

/-- `t` has these of `s`, and all of its chips where no other agent acts. -/
structure Barred (s t : State) : Prop where
  settings : chipSettings t = chipSettings s
  quiet : s.midEvents = [] → chipState t = chipState s

theorem Barred.refl (s : State) : Barred s s := ⟨rfl, fun _ => rfl⟩

theorem Barred.trans {s t u : State} (h : Barred s t) (step : Barred t u) : Barred s u := by
  refine ⟨step.settings.trans h.settings, fun none => ?_⟩
  have before := h.quiet none
  have still : t.midEvents = s.midEvents := congrArg (fun x => x.2.2.2.2.1) before
  exact (step.quiet (still.trans none)).trans before

/-- A change of no chip. -/
theorem Barred.of_same {s t : State} (same : chipState t = chipState s) : Barred s t := by
  refine ⟨?_, fun _ => same⟩
  simp only [chipState, Prod.mk.injEq] at same
  obtain ⟨plat, memc, vidc, -, -, held, devices, settings⟩ := same
  simp only [chipSettings, plat, memc, vidc, held, devices, settings]

theorem Barred.same {s t u : State} (h : Barred s t) (same : chipState u = chipState t) : Barred s u :=
  h.trans (.of_same same)

theorem takeBatch_quiet {s : State} (h : s.midEvents = []) : takeBatch s = separate s := by
  unfold takeBatch
  rw [h]

theorem takeBatch_barred (s : State) : Barred s (takeBatch s) := by
  have kept := takeBatch_undisturbed s
  refine ⟨?_, fun none => by rw [takeBatch_quiet none]; rfl⟩
  simp only [chipSettings, (takeBatch_same s).1.plat, kept.memc, kept.vidc, kept.ioc, kept.held, kept.devices]

theorem Barred.startAccess {s t : State} (h : Barred s t) : leaves (Barred s) (startAccess t) := by
  unfold Machine.startAccess
  split
  · exact h.trans (takeBatch_barred t)
  · exact h
  · next n _ => exact (h.same (u := { t with cut := some n }) rfl).trans (takeBatch_barred _)

section
variable {s t : State} (memc : s.plat.hasMemc = true) (normal : s.memc.boot = .normal) (h : Barred s t)
include memc normal h

theorem Barred.reaches (write : Bool) (a : Addr) : ReachesNoChip t (busTarget write a true t) := by
  have plat : t.plat = s.plat := congrArg (fun x => x.1) h.settings
  have boot : t.memc.boot = s.memc.boot := congrArg (fun x => x.2.1.boot) h.settings
  exact busTarget_user (by rw [plat, memc]) (boot.trans normal) write a

theorem Barred.extRead (a : Addr) : leaves (Barred s) (extRead a true t) := by
  unfold Machine.extRead
  refine leaves_bind h.startAccess fun _ u _ hu => ?_
  have reach := hu.reaches memc normal false a
  revert reach
  cases busTarget false a true u with
  | done x v =>
    cases x with
    | memory loc => exact fun same => hu.same same
    | bootRam | io | vidc | register | translator => exact False.elim
  | abort v => exact fun same => hu.same same
  | held v => exact False.elim
  | refused r => exact fun _ => trivial

theorem Barred.laterRead (a : Addr) : leaves (Barred s) (laterRead a true t) := by
  have read := h.extRead memc normal a
  unfold Machine.laterRead
  revert read
  cases Machine.extRead a true t with
  | abort u => exact fun hu => hu.same rfl
  | done w u | held u | refused r => exact id

theorem Barred.memRead (a : Addr) : leaves (Barred s) (memRead a true t) := by
  have inserted {l : CacheLine} {u : State} (hu : Barred s u) : Barred s (insertLine l u) := by
    refine hu.same ?_
    unfold insertLine
    dsimp only
    split <;> rfl
  unfold Machine.memRead
  repeat' split
  · exact h
  · rw [lineFetch_eq]
    refine leaves_bind (h.extRead memc normal _) fun _ _ _ h0 => ?_
    refine leaves_bind (h0.laterRead memc normal _) fun _ _ _ h1 => ?_
    refine leaves_bind (h1.laterRead memc normal _) fun _ _ _ h2 => ?_
    exact leaves_bind (h2.laterRead memc normal _) fun _ _ _ h3 => inserted h3
  · exact h.extRead memc normal a
  · exact h.extRead memc normal a

theorem Barred.extWrite (a : Addr) (z : Size) (d : Word) : leaves (Barred s) (extWrite a z d true t) := by
  unfold Machine.extWrite
  refine leaves_bind h.startAccess fun _ u _ hu => ?_
  have reach := hu.reaches memc normal true a
  revert reach
  cases busTarget true a true u with
  | done x v =>
    cases x with
    | memory loc =>
      intro same
      have stored := hu.same same
      cases z <;> exact stored.same rfl
    | bootRam | io | vidc | register | translator => exact False.elim
  | abort v => exact fun same => hu.same same
  | held v => exact False.elim
  | refused r => exact fun _ => trivial

theorem Barred.memWrite (a : Addr) (z : Size) (d : Word) : leaves (Barred s) (memWrite a z d true t) := by
  have cached {aborted : Bool} {u : State} (hu : Barred s u) : Barred s (cacheWrite a z d true aborted u) := by
    refine hu.same ?_
    unfold cacheWrite
    repeat' split
    all_goals rfl
  have overlapped {u : State} (hu : Barred s u) : Barred s (overlapPrefetch a z d u) := by
    refine hu.same ?_
    unfold overlapPrefetch
    split <;> rfl
  have cycle := h.extWrite memc normal a z d
  unfold Machine.memWrite
  revert cycle
  cases Machine.extWrite a z d true t with
  | done stored u =>
    intro hu
    dsimp only
    split
    · exact overlapped (cached hu)
    · exact cached hu
  | abort u => exact cached
  | held u => exact id
  | refused r => exact id

end

theorem Barred.lasts {s : State} (memc : s.plat.hasMemc = true) (normal : s.memc.boot = .normal)
    (user : s.psr.mode = .user) : Lasts s (Barred s) where
  processor h only := h.same (surroundings_chipState only.around)
  fetch a _ _ htr h := htr user ▸ h.extRead memc normal a
  read a _ _ htr h := htr user ▸ h.memRead memc normal a
  write a z d _ _ htr h := htr user ▸ h.memWrite memc normal a z d
  cp15 _ _ _ privileged := absurd user privileged

theorem Memc.settings_eq_iff {m n : Memc} : m.settings = n.settings ↔
    m.pageSize = n.pageSize ∧ m.lowRom = n.lowRom ∧ m.highRom = n.highRom ∧ m.refresh = n.refresh ∧
      m.videoDma = n.videoDma ∧ m.soundDma = n.soundDma ∧ m.osMode = n.osMode ∧ m.testMode = n.testMode ∧
      m.entries = n.entries ∧ m.vinit = n.vinit ∧ m.vstart = n.vstart ∧ m.vend = n.vend ∧ m.cinit = n.cinit ∧
      m.sstart = n.sstart ∧ m.boot = n.boot := by
  simp only [Memc.settings, Memc.mk.injEq, true_and]

theorem Vidc.settings_eq_iff {v x : Vidc} : v.settings = x.settings ↔
    v.palette = x.palette ∧ v.border = x.border ∧ v.cursor = x.cursor ∧ v.stereo = x.stereo ∧ v.horiz = x.horiz ∧
      v.hcsr = x.hcsr ∧ v.vert = x.vert ∧ v.sfr = x.sfr ∧ v.cr = x.cr ∧ v.written = x.written := by
  simp only [Vidc.settings, Vidc.mk.injEq, and_true]

theorem Ioc.settings_eq_iff {i j : Ioc} : i.settings = j.settings ↔
    i.ctrl = j.ctrl ∧ i.wild = j.wild ∧ i.maskA = j.maskA ∧ i.maskB = j.maskB ∧ i.maskF = j.maskF ∧
      ∀ n : Fin 4, i.timers[n].inLatch = j.timers[n].inLatch ∧ i.timers[n].outLatch = j.timers[n].outLatch := by
  have timers : i.timers.map Timer.latches = j.timers.map Timer.latches ↔
      ∀ n : Fin 4, i.timers[n].latches = j.timers[n].latches := by
    simp only [Vector.ext_iff, Vector.getElem_map, Fin.forall_iff, Fin.getElem_fin]
  simp only [Ioc.settings, Prod.mk.injEq, timers, Timer.latches]

/-- Settles O45: a User-mode instruction keeps the chips, as all its accesses are decoded to memory or aborted. -/
theorem userModeCannotTouchDevices : Obligations.UserModeCannotTouchDevices := by
  intro i s t memc normal user ht
  have barred := (Barred.lasts memc normal user).exec (.refl s) i t ht
  have settings := barred.settings
  simp only [chipSettings, Prod.mk.injEq, Memc.settings_eq_iff, Vidc.settings_eq_iff, Ioc.settings_eq_iff, normal]
    at settings
  obtain ⟨-, hm, hv, hi, held, devices⟩ := settings
  refine ⟨hm, hv, hi, held, devices, fun none => ?_⟩
  have quiet := barred.quiet none
  simp only [chipState, Prod.mk.injEq] at quiet
  obtain ⟨-, memc, vidc, ioc, -⟩ := quiet
  exact ⟨memc, vidc, ioc⟩

end Sys2Proof.Machine
end

section
/-! PROOFS. Exceptions (48_undefined.md, 60_exceptions.md R450-R466): which instructions trap, what an entry saves, and what the
return sequences make of the saved word. -/

namespace Sys2Proof.Machine

/-! ## The undefined-instruction trap (R250, R251) -/

/-- UND-A, UND-B, and the swaps of CPU-010 end in the trap, whatever the rest of the word. -/
theorem exec_undefined {i : Instr} {s : State} (hc : condPassed i.cond s.psr = true)
    (hi : (∃ c hi mid lo, i = .undA c hi mid lo) ∨ (∃ c hi lo, i = .undB c hi lo) ∨
      (s.plat.cpu = .cpu010 ∧ ∃ c rn rd rm, i = .swp c rn rd rm ∨ i = .swpb c rn rd rm)) :
    exec i s = .next (enter .undefined s) := by
  obtain ⟨c, hi, mid, lo, rfl⟩ | ⟨c, hi, lo, rfl⟩ | ⟨cpu, c, rn, rd, rm, rfl | rfl⟩ := hi
  · exact conditional_pass hc _
  · exact conditional_pass hc _
  · simp only [exec, execSwp, swap, conditional_pass (show condPassed c s.psr = true from hc), if_pos cpu, raise]
  · simp only [exec, execSwpb, swap, conditional_pass (show condPassed c s.psr = true from hc), if_pos cpu, raise]

/-- Settles O21: each of them enters the trap of R453. -/
theorem undefinedTrap : Obligations.UndefinedTrap := by
  intro i s hc hi
  obtain ⟨pc, psr, link, others, mem⟩ := enter_trapped (.inl rfl) s
  exact ⟨_, exec_undefined hc hi, pc, psr, link, others, mem⟩

/-! ## Entry (R450, R451) -/

/-- R14 receives the old PSR around the address one or two words ahead. -/
theorem r15Val_ahead (e : Exc) (s : State) :
    r15Val e.ahead s = packR15 s.psr (s.pc + if e = .dataAbort ∨ e = .addressException then 2 else 1) := by
  cases e <;> rfl

theorem setsF_eq (e : Exc) : e.setsF = decide (e = .reset ∨ e = .firq) := by cases e <;> rfl

theorem raise_eq (e : Exc) (s : State) :
    raise e s = .next (enterWith e
      (packR15 s.psr (s.pc + if e = .dataAbort ∨ e = .addressException then 2 else 1)) s) := by
  rw [← r15Val_ahead]
  rfl

theorem getPhys_enterWith_other {e : Exc} {q : PhysReg} (h : q ≠ phys e.mode 14#4) (link : Word) (s : State) :
    getPhys (enterWith e link s).regs q = getPhys s.regs q := getPhys_setPhys_ne s.regs link h

/-- Settles O22: the vector and the mode by exception, the rest for all of them at once. -/
theorem exceptionEntry : Obligations.ExceptionEntry := by
  intro e link s t vector mode ahead
  have hvector : e.vector.toNat * 4 = vector := by cases e <;> rfl
  have hmode : e.mode = mode := by cases e <;> rfl
  refine ⟨hvector, hmode, rfl, congrArg (s.psr.f || ·) (setsF_eq e), rfl, rfl, rfl, rfl, ?link, fun _ => raise_eq e s,
    ?others, rfl, rfl, rfl, rfl, rfl, rfl, rfl, rfl, rfl⟩
  all_goals rw [← hmode]
  case link => exact getPhys_setPhys_same s.regs _ link
  case others => exact fun q hq => getPhys_enterWith_other hq link s

/-! ## Return (R466) -/

theorem toNat_append_eq {m n : Nat} (x : BitVec m) (y : BitVec n) : (x ++ y).toNat = x.toNat * 2 ^ n + y.toNat := by
  rw [BitVec.toNat_append, ← Nat.shiftLeft_add_eq_or_of_lt y.isLt, Nat.shiftLeft_eq]

/-- The word of R15 as a number: the PSR bits above and below the word address. -/
theorem toNat_packR15 (p : Psr) :
    ∃ high, ∀ pc, (packR15 p pc).toNat = high * 2 ^ 26 + pc.toNat * 4 + (modeBits p.mode).toNat := by
  refine ⟨(bit1 p.n ++ bit1 p.z ++ bit1 p.c ++ bit1 p.v ++ bit1 p.i ++ bit1 p.f).toNat, fun pc => ?_⟩
  rw [packR15, toNat_append_eq, toNat_append_eq]
  ring

/-- Subtracting `k` words from a saved R15 image moves its address alone, where that does not go below 0. -/
theorem packR15_sub {pc : PcWord} {k : Nat} (hk : k ≤ pc.toNat) (p : Psr) :
    packR15 p pc - BitVec.ofNat 32 (4 * k) = packR15 p (pc - BitVec.ofNat 24 k) := by
  obtain ⟨high, image⟩ := toNat_packR15 p
  have moved : (pc - BitVec.ofNat 24 k).toNat = pc.toNat - k := by
    rw [BitVec.toNat_sub, BitVec.toNat_ofNat]
    omega
  refine BitVec.eq_of_toNat_eq ?_
  have fits := (packR15 p pc).isLt
  rw [image] at fits
  rw [BitVec.toNat_sub, BitVec.toNat_ofNat, image, image, moved]
  omega

/-- What a return sequence leaves: the PC and PSR of the image it writes to R15, with no register but the handler's R14
changed since the entry. -/
theorem returned_after_entry (e : Exc) (s : State) (pc : PcWord) {i : Instr}
    (hi : exec i (enter e s) = .next (wrotePc true (packR15 s.psr pc) (enter e s))) :
    ∃ t, exec i (enter e s) = .next t ∧ t.psr = s.psr ∧ t.pc = pc ∧ t.mem = s.mem ∧
      ∀ q, q ≠ phys e.mode 14#4 → getPhys t.regs q = getPhys s.regs q := by
  have privileged : (enter e s).psr.mode ≠ .user := by
    rw [enter_psr]
    cases e <;> nofun
  exact ⟨_, hi, writePsr_packR15 privileged s.psr pc, pcBits_packR15 s.psr pc, enter_mem e s,
    fun q hq => enter_other e s hq⟩

/-- R14 of the handler, read straight after the entry. -/
theorem regOrR15_link (e : Exc) (s : State) (ahead pos : Nat) :
    (regOrPc ahead pos 14#4 (enter e s) = r15Val e.ahead s) ∧ regOrR15 ahead pos 14#4 (enter e s) = r15Val e.ahead s := by
  have read : readReg pos 14#4 (enter e s) = r15Val e.ahead s := by
    rw [readReg_plain (enter_hazard e s), enter_psr]
    exact enter_link e s
  exact ⟨read, read⟩

theorem exec_movs_link (e : Exc) (s : State) :
    exec (.mov .al true 0#4 15#4 (.shImm 0#5 .lsl 14#4)) (enter e s) =
      .next (wrotePc true (r15Val e.ahead s) (enter e s)) := by
  obtain ⟨-, -, -, -, mov, -⟩ := (resultToR15 .al 0#4 (.shImm 0#5 .lsl 14#4) (enter e s) rfl).1 true
  rw [mov, evalOp2, (regOrR15_link e s 8 1).2]
  rfl

theorem exec_subs_link (e : Exc) (s : State) (k : Nat) (hk : k < 64) :
    exec (.sub .al true 14#4 15#4 (.imm 0#4 (BitVec.ofNat 8 (4 * k)))) (enter e s) =
      .next (wrotePc true (r15Val e.ahead s - BitVec.ofNat 32 (4 * k)) (enter e s)) := by
  obtain ⟨-, -, -, -, -, -, -, -, sub, -⟩ :=
    (resultToR15 .al 14#4 (.imm 0#4 (BitVec.ofNat 8 (4 * k))) (enter e s) rfl).1 true
  have amount : (evalOp2 (.imm 0#4 (BitVec.ofNat 8 (4 * k))) (enter e s)).value = BitVec.ofNat 32 (4 * k) := by
    refine BitVec.eq_of_toNat_eq ?_
    simp only [evalOp2, immOperand, if_true, BitVec.toNat_setWidth, BitVec.toNat_ofNat]
    omega
  rw [sub, amount, subtract_result, (regOrR15_link e s _ 0).1]

/-- SUBS PC,R14,4k directly after an entry that saved an address `ahead` words further on. -/
theorem exec_subs_back {e : Exc} {s : State} {ahead k : Nat}
    (saved : r15Val e.ahead s = packR15 s.psr (s.pc + BitVec.ofNat 24 ahead))
    (hk : k ≤ ahead) (few : k < 64) (unwrapped : s.pc.toNat + ahead < 2 ^ 24) :
    exec (.sub .al true 14#4 15#4 (.imm 0#4 (BitVec.ofNat 8 (4 * k)))) (enter e s) =
      .next (wrotePc true (packR15 s.psr (s.pc + BitVec.ofNat 24 (ahead - k))) (enter e s)) := by
  have high : k ≤ (s.pc + BitVec.ofNat 24 ahead).toNat := by
    rw [BitVec.toNat_add, BitVec.toNat_ofNat]
    omega
  have target : s.pc + BitVec.ofNat 24 ahead - BitVec.ofNat 24 k = s.pc + BitVec.ofNat 24 (ahead - k) := by
    refine BitVec.eq_of_toNat_eq ?_
    simp only [BitVec.toNat_sub, BitVec.toNat_add, BitVec.toNat_ofNat]
    omega
  rw [exec_subs_link e s k few, saved, packR15_sub high, target]

/-- Settles O23: the image in R14 comes back whole, moved by the words that are subtracted. -/
theorem exceptionReturn : Obligations.ExceptionReturn := by
  intro s back movs subs4 subs8
  refine ⟨fun e he => ?next, fun e he unwrapped => ?interrupted, fun e he unwrapped => ⟨?itself, ?after⟩⟩
  case next =>
    refine returned_after_entry e s _ ((exec_movs_link e s).trans ?_)
    obtain rfl | rfl := he <;> rfl
  case interrupted =>
    have saved : r15Val e.ahead s = packR15 s.psr (s.pc + BitVec.ofNat 24 1) := by
      obtain rfl | rfl | rfl := he <;> rfl
    have here := exec_subs_back (k := 1) saved (Nat.le_refl _) (by decide) unwrapped
    rw [Nat.sub_self, BitVec.add_zero] at here
    exact returned_after_entry e s _ here
  case itself =>
    have saved : r15Val e.ahead s = packR15 s.psr (s.pc + BitVec.ofNat 24 2) := by
      obtain rfl | rfl := he <;> rfl
    have here := exec_subs_back (k := 2) saved (Nat.le_refl _) (by decide) unwrapped
    rw [Nat.sub_self, BitVec.add_zero] at here
    exact returned_after_entry e s _ here
  case after =>
    have saved : r15Val e.ahead s = packR15 s.psr (s.pc + BitVec.ofNat 24 2) := by
      obtain rfl | rfl := he <;> rfl
    have one : s.pc + BitVec.ofNat 24 (2 - 1) = s.pc + 1 := rfl
    have here := exec_subs_back (k := 1) saved (by decide) (by decide) unwrapped
    rw [one] at here
    exact returned_after_entry e s _ here

/-! ## Illegal addresses and aborts (R180, R181, R202) -/

section
variable {c : Cond} {s : State} (hc : condPassed c s.psr = true)
include hc

section
variable {p u w : Bool} {rn rd : Reg} {off : Offset}

theorem singleLoad_illegal (extract : Word → Word → Word)
    (illegal : illegalAddress (singleAddress p u rn off s) = true) :
    singleLoad extract c p u w rn rd off s = .next (enter .addressException s) :=
  (conditional_pass hc _).trans (if_pos illegal)

theorem singleStore_illegal (size : Size) (data : Word → Word)
    (illegal : illegalAddress (singleAddress p u rn off s) = true) :
    singleStore size data c p u w rn rd off s = .next (enter .addressException s) :=
  (conditional_pass hc _).trans (if_pos illegal)

variable {t : State} (legal : illegalAddress (singleAddress p u rn off s) = false)
include legal

theorem singleLoad_aborted (extract : Word → Word → Word)
    (abort : memRead (busAddress (singleAddress p u rn off s)) (translateBit p w s) s = .abort t) :
    singleLoad extract c p u w rn rd off s = .next (enter .dataAbort t) := by
  rw [singleLoad, conditional_pass hc]
  dsimp only
  rw [if_neg (ne_true_of_eq_false legal), abort, Bus.out_abort, raise]

theorem singleStore_aborted (size : Size) (data : Word → Word)
    (abort : memWrite (busAddress (singleAddress p u rn off s)) size (data (regOrR15 12 3 rd s)) (translateBit p w s) s =
      .abort t) :
    singleStore size data c p u w rn rd off s = .next (enter .dataAbort t) := by
  rw [singleStore, conditional_pass hc]
  dsimp only
  rw [if_neg (ne_true_of_eq_false legal), abort, Bus.out_abort, raise]

end

section
variable {p u sb w : Bool} {rn : Reg} {list : BitVec 16} (some : list ≠ 0#16)
  (illegal : illegalAddress (blockStart p u list (regOrR15 8 0 rn s)) = true)
include some illegal

/-- The base is written back before the address exception (R202). -/
theorem execStm_illegal :
    execStm c p u sb w rn list s = .next (enter .addressException (applyBase
      (blockBase (sb && s.psr.mode != .user) w rn (blockFinal u list (regOrR15 8 0 rn s)) s) s)) :=
  (conditional_pass hc _).trans ((if_neg some).trans (if_pos illegal))

theorem execLdm_illegal :
    execLdm c p u sb w rn list s = .next (enter .addressException (applyBase
      (blockBase (sb && s.psr.mode != .user && !(bit list 15)) w rn (blockFinal u list (regOrR15 8 0 rn s)) s) s)) :=
  (conditional_pass hc _).trans ((if_neg some).trans (if_pos illegal))

end

end

/-- Settles O26: the tests of the address and of the answer, before anything is written but the base of a block. -/
theorem transferTraps : Obligations.TransferTraps := by
  refine ⟨?single, ?block⟩
  case single =>
    intro c p u w rn rd off s t hc addr value
    refine ⟨?illegal, fun legal => ⟨?read, ?word, ?byte⟩⟩
    case read => exact fun abort => ⟨singleLoad_aborted hc legal _ abort, singleLoad_aborted hc legal _ abort⟩
    case word => exact fun abort => singleStore_aborted hc legal .word (fun v => v) abort
    case byte => exact fun abort => singleStore_aborted hc legal .byte repeatByte abort
    case illegal =>
      rintro illegal i (rfl | rfl | rfl | rfl)
      · exact singleLoad_illegal hc _ illegal
      · exact singleLoad_illegal hc _ illegal
      · exact singleStore_illegal hc .word (fun v => v) illegal
      · exact singleStore_illegal hc .byte repeatByte illegal
  case block =>
    intro c p u sb w rn list s hc some base final user illegal
    exact ⟨execStm_illegal hc some illegal, execLdm_illegal hc some illegal⟩

end Sys2Proof.Machine
end

section
/-! PROOFS. The order of a boundary (60_exceptions.md R460-R464) and its fetches, coprocessor 15 (50_cache_cp15.md R270-R279),
IOC's interrupt requests (53_ioc.md R410-R413), and the invariant at reset. -/

namespace Sys2Proof.Machine

/-- Settles O56: memory and the cache are empty, and every translator entry is 0. -/
theorem invReset : Obligations.InvReset := by
  have entries (k : Fin 128) : (Memc.reset.entries[k].lpn).toNat < 2 ^ (13 - Memc.reset.pageSize.toNat) := by
    simp [Memc.reset]
  exact ⟨rfl, ⟨Nat.zero_le _, .nil⟩, Nat.zero_le _, entries, rfl⟩

/-! ## A boundary -/

section
variable {s : State} (hi : s.inputs = []) (hh : s.held = none)
include hi hh

/-- A step without input while the clocks run is the boundary. -/
theorem step_eq_runBoundary : step s = runBoundary exec false false s := by
  simp only [step, stepWith, hi, hh]

/-- Once the word at the PC is there, FIRQ is tested, then IRQ, then the instruction runs. -/
theorem step_fetched {u : State} (hf : fetchFirst s = .done () u) :
    step s =
      if firqAccepted false u then .next (enter .firq u)
      else if irqAccepted false u then .next (enter .irq u)
      else runInstruction exec u := by
  rw [step_eq_runBoundary hi hh, runBoundary, hf]
  rfl

end

theorem fetchSlot_same (pc : PcWord) (s : State) : leaves (SameStore s) (fetchSlot pc s) := by
  have read := memRead_same (fetchAddress pc) (modeTranslate s) s
  unfold fetchSlot
  dsimp only
  revert read
  cases memRead (fetchAddress pc) (modeTranslate s) s with
  | done w t | abort t | held t => exact id
  | refused r => exact fun _ => .refl s

/-- Fetching changes the pipeline, and leaves the processor and memory. -/
theorem fetchMore_same (n : Nat) (s : State) : leaves (SameStore s) (fetchMore n s) := by
  induction n generalizing s with
  | zero => exact .refl s
  | succ n ih =>
    refine leaves_bind (fetchSlot_same _ s) fun sl t _ ht => ?_
    have grown : SameStore t { t with pipe := t.pipe ++ [sl] } :=
      ⟨⟨rfl, rfl, rfl, rfl, rfl, rfl, rfl, rfl, rfl, id⟩, rfl⟩
    exact leaves_from (ht.trans grown) (ih _)

theorem fetchMore_done_same {n : Nat} {s t : State} (h : fetchMore n s = .done () t) : SameStore s t := by
  have same := fetchMore_same n s
  rwa [h] at same

theorem fetchFirst_nonempty {s u : State} (h : fetchFirst s = .done () u) :
    u.pipe ≠ [] ∧ (s.pipe ≠ [] → u = s) := by
  obtain ⟨l, hl, hu⟩ := fetchMore_appends h
  cases hp : s.pipe with
  | nil =>
    refine ⟨fun none => ?_, fun some => absurd rfl some⟩
    rw [hp] at hl
    rw [hu] at none
    have empty : l = [] := (List.append_eq_nil_iff.1 none).2
    rw [empty] at hl
    cases hl
  | cons sl rest =>
    rw [fetchFirst, hp, List.length_cons, Nat.sub_eq_zero_of_le (Nat.le_add_left 1 _)] at h
    cases h
    exact ⟨fun none => List.cons_ne_nil _ _ (hp.symm.trans none), fun _ => rfl⟩

/-- Settles O6: the word at the PC comes first, then the pins as it leaves them. -/
theorem interruptPriority : Obligations.InterruptPriority := by
  intro s u hi hh hf
  obtain ⟨nonempty, unchanged⟩ := fetchFirst_nonempty hf
  have core := (fetchMore_done_same hf).1
  refine ⟨⟨core.pc, core.psr, core.regs, nonempty, unchanged⟩, fun low enabled => ?firq, fun noFirq low enabled => ?irq⟩
  case firq =>
    have accepted : firqAccepted false u = true := by simp [firqAccepted, low, enabled]
    rw [step_fetched hi hh hf, if_pos accepted]
  case irq =>
    have refused : firqAccepted false u = false := by obtain h | h := noFirq <;> simp [firqAccepted, h]
    have accepted : irqAccepted false u = true := by simp [irqAccepted, low, enabled]
    rw [step_fetched hi hh hf, if_neg (ne_true_of_eq_false refused), if_pos accepted]

/-! ## The fetches of flat memory -/

theorem alignWord_fetchAddress (pc : PcWord) : alignWord (fetchAddress pc) = fetchAddress pc := by
  simp only [alignWord, fetchAddress, field]
  rw [field_append_high _ _ _ _ (Nat.le_refl _)]
  simp

/-- The slot that a fetch of word address `pc` from flat memory leaves. -/
def flatSlot (s : State) (pc : PcWord) : Slot := ⟨.word (s.mem.readWord (fetchAddress pc).toNat), s.psr.mode != .user⟩

/-- `s` after accesses between which nothing happened, with `p` prefetched. -/
def afterFetch (s : State) (p : List Slot) : State := { separate s with pipe := p }

section
variable {s : State} (flat : s.plat.hasMemc = false) (uncut : s.cut = none) (uncached : cacheOn s = false)
  (quiet : s.midEvents = [])
include flat uncut uncached quiet

theorem fetchSlot_flat (pc : PcWord) : fetchSlot pc s = .done (flatSlot s pc) (separate s) := by
  rw [fetchSlot, memRead_flat flat uncut uncached, takeBatch_quiet quiet, alignWord_fetchAddress, flatSlot]

theorem fetchMore_flat (n : Nat) (p : List Slot) :
    fetchMore (n + 1) (afterFetch s p) =
      fetchMore n (afterFetch s (p ++ [flatSlot s (s.pc + BitVec.ofNat 24 p.length)])) := by
  rw [fetchMore, fetchSlot_flat (s := afterFetch s p) flat uncut uncached quiet]
  rfl

theorem fetchFirst_flat (empty : s.pipe = []) :
    fetchFirst s = .done () (afterFetch s [flatSlot s (s.pc + 0)]) := by
  have none : separate s = afterFetch s [] := by
    rw [afterFetch, ← empty]
    rfl
  rw [fetchFirst, empty]
  show fetchMore (0 + 1) s = _
  rw [fetchMore, fetchSlot_flat flat uncut uncached quiet, empty, none]
  rfl

theorem fillPipe_flat (first : Slot) :
    fillPipe (afterFetch s [first]) =
      .done () (afterFetch s [first, flatSlot s (s.pc + 1), flatSlot s (s.pc + 2)]) := by
  show fetchMore (1 + 1) (afterFetch s [first]) = _
  rw [fetchMore_flat flat uncut uncached quiet, fetchMore_flat flat uncut uncached quiet]
  rfl

end

/-- The bytes of the word at the PC decode as the word does. -/
theorem decode_of_decodeBytes {cpu : Cpu} {m : Memory} {loc : Nat} {i : Instr}
    (h : decodeBytes cpu [m.read loc, m.read (loc + 1), m.read (loc + 2), m.read (loc + 3)] = .ok (i, [])) :
    decode cpu (m.readWord loc) = i := (Prod.mk.inj (Except.ok.inj h)).1

/-- Settles O5: the fetches leave the processor and memory, and the head of the pipeline runs. -/
theorem stepRunsDecoded : Obligations.StepRunsDecoded := by
  refine ⟨?general, ?flat⟩
  case general =>
    intro s u t priv rest hi hh hf noFirq noIrq fill
    have same := (fetchMore_done_same hf).trans (fetchMore_done_same fill)
    have ran : step s = executeHead exec t := by
      rw [step_fetched hi hh hf, if_neg (ne_true_of_eq_false noFirq), if_neg (ne_true_of_eq_false noIrq), runInstruction,
        fill]
      rfl
    refine ⟨⟨same.1.regs, same.1.psr, same.1.pc, same.2⟩, fun w head => ?_, fun head => ?_⟩
    · rw [ran, executeHead, head, ← same.1.plat]
    · rw [ran, executeHead, head]
      rfl
  case flat =>
    intro s i hi hh uncut quiet noFirq noIrq empty flat uncached loc slot decodes
    have first := fetchFirst_flat flat uncut uncached quiet empty
    have noFirq' : firqAccepted false (afterFetch s [flatSlot s (s.pc + 0)]) = false := noFirq
    have noIrq' : irqAccepted false (afterFetch s [flatSlot s (s.pc + 0)]) = false := noIrq
    have here : decode s.plat.cpu (s.mem.readWord (fetchAddress (s.pc + 0)).toNat) = i := by
      have same : s.pc + 0 = s.pc := BitVec.add_zero s.pc
      rw [same]
      exact decode_of_decodeBytes decodes
    rw [step_fetched hi hh first, if_neg (ne_true_of_eq_false noFirq'), if_neg (ne_true_of_eq_false noIrq'), runInstruction,
      fillPipe_flat flat uncut uncached quiet]
    exact congrArg (fun j => exec j { separate s with pipe := [slot 0, slot 1, slot 2] }) here

/-! ## Coprocessor 15 (R272-R278) -/

/-- Settles O43, from what a transfer with coprocessor 15 is outside User mode. -/
theorem cp15Transfers : Obligations.Cp15Transfers := by
  intro c rd s hc h20 hm v mcr mrc got
  have read {crn : Reg} {x : Word} (supplied : readCp15 crn s = .done x s) : mrc crn = got x := by
    have run : mrc crn = (readCp15 crn s).out (fun v t => finishMrc rd v t) (raise .dataAbort) :=
      (exec_mrc_cp15 hc h20 hm 0#3 crn rd 0#3 0#4).trans (if_pos rfl)
    rw [run, supplied, Bus.out_done, finishMrc_eq]
    simp only [got]
    split <;> rfl
  have write {crn : Reg} {t : State} (written : writeCp15 crn v s = .done () t) :
      mcr crn = .next (retire (advance t)) := by
    have run : mcr crn = (writeCp15 crn v s).out (fun _ t => finish t) (raise .dataAbort) :=
      (exec_mcr_cp15 hc h20 hm 0#3 crn rd 0#3 0#4).trans (if_pos rfl)
    rw [run, written]
    rfl
  exact ⟨read rfl, read rfl, read rfl, read rfl, read rfl, write rfl, write rfl, write rfl, write rfl, write rfl⟩

/-! ## IOC's requests (R410-R413) -/

/-- Settles O51: each pin is low exactly where a request register is not 0. -/
theorem iocInterrupts : Obligations.IocInterrupts := by
  refine ⟨fun s fitted => ?pins, fun v s => ⟨rfl, rfl, rfl, fun k hk => ?clear⟩⟩
  case pins =>
    have irq : irqLow s = true ↔ statusA s &&& s.ioc.maskA ≠ 0#8 ∨ statusB s &&& s.ioc.maskB ≠ 0#8 := by
      rw [irqLow, if_pos fitted, bne_iff_ne, requestA, requestB, Ne, BitVec.or_eq_zero_iff, not_and_or]
    have firq : firqLow s = true ↔ statusF s &&& s.ioc.maskF ≠ 0#8 := by
      rw [firqLow, if_pos fitted, bne_iff_ne, requestF]
    refine ⟨irq, firq, fun maskA maskB maskF => ⟨?_, ?_⟩⟩
    · rw [← Bool.not_eq_true, irq, maskA, maskB, BitVec.and_zero, BitVec.and_zero]
      simp
    · rw [← Bool.not_eq_true, firq, maskF, BitVec.and_zero]
      simp
  case clear =>
    have cleared : (writeIocRegister 5#5 v s).ioc.latA = s.ioc.latA &&& ~~~(field v 2 5) := rfl
    rw [cleared, BitVec.getLsbD_and, BitVec.getLsbD_not, field, BitVec.getLsbD_extractLsb']
    simp [hk, Nat.add_comm]

end Sys2Proof.Machine
end

section
/-! PROOFS. MEMC (51_memc.md R305-R320): translation and protection, the boot states, and the writes of its registers. -/

namespace Sys2Proof.Machine

/-! ## Translation (R305, R307, R314) -/

theorem bootStep_normal {s : State} (normal : s.memc.boot = .normal) (a : Addr) : bootStep a s = s := by
  have kept : bootNext a s.memc.boot = s.memc.boot := by rw [normal]; rfl
  rw [bootStep, kept]

/-- Past the boot states an access below 0x2000000 is translated (R303). -/
theorem busTarget_logical {s : State} (memc : s.plat.hasMemc = true) (normal : s.memc.boot = .normal) {a : Addr}
    (low : a.toNat < 0x2000000) (write trans : Bool) :
    busTarget write a trans s = logicalTarget write (alignWord a) trans s := by
  have past (p : Prop) : ¬ (s.memc.boot ≠ .normal ∧ p) := fun h => h.1 normal
  rw [busTarget, if_pos memc, memcTarget, bootStep_normal normal]
  rw [if_neg (past _), if_neg (past _), if_pos low]

/-- An entry holds the page number of an aligned address exactly where it holds that of the address. -/
theorem beq_pageOf_iff {m : Memc} {a : Addr} (low : a.toNat < 0x2000000) (lpn : BitVec 13) :
    (lpn == m.pageOf (alignWord a)) = true ↔ lpn.toNat = a.toNat / m.pageBytes := by
  have size : m.pageBytes = 4 * (1024 * 2 ^ m.pageSize.toNat) := by rw [Memc.pageBytes]; omega
  have aligned : (alignWord a).toNat / m.pageBytes = a.toNat / m.pageBytes := by
    rw [size, toNat_alignWord, ← Nat.div_div_eq_div_mul, ← Nat.div_div_eq_div_mul a.toNat,
      Nat.mul_div_cancel_left _ (by decide)]
  have small : a.toNat / m.pageBytes < 2 ^ 13 := by
    have pages := Nat.two_pow_pos m.pageSize.toNat
    refine Nat.div_lt_of_lt_mul ?_
    rw [Memc.pageBytes]
    omega
  have below : (alignWord a).toNat % 2 ^ 25 = (alignWord a).toNat :=
    Nat.mod_eq_of_lt (by rw [toNat_alignWord]; omega)
  rw [beq_iff_eq, Memc.pageOf, below, aligned, ← BitVec.toNat_inj, BitVec.toNat_ofNat, Nat.mod_eq_of_lt small]

section
variable {m : Memc} {a : Addr} (low : a.toNat < 0x2000000)
include low

theorem matching_single {i : Fin 128} (only : ∀ j : Fin 128, m.entries[j].lpn.toNat = a.toNat / m.pageBytes ↔ j = i) :
    m.matching (m.pageOf (alignWord a)) = [i] := by
  have is (j : Fin 128) : (m.entries[j].lpn == m.pageOf (alignWord a)) = decide (j = i) := by
    rw [Bool.eq_iff_iff, beq_pageOf_iff low, only, decide_eq_true_iff]
  rw [Memc.matching, List.filter_congr fun j _ => is j, List.filter_eq,
    List.count_eq_one_of_mem (List.nodup_finRange 128) (List.mem_finRange i), List.replicate_one]

theorem matching_none (no : ∀ j : Fin 128, m.entries[j].lpn.toNat ≠ a.toNat / m.pageBytes) :
    m.matching (m.pageOf (alignWord a)) = [] :=
  List.filter_eq_nil_iff.2 fun j _ h => no j ((beq_pageOf_iff low _).1 h)

end

/-- Table 3 (R307) in the three modes (R305). -/
theorem permits_iff (trans : Bool) (m : Memc) (ppl : BitVec 2) (write : Bool) :
    permits (memcMode trans m) ppl write = true ↔
      trans = false ∨ (m.osMode = true ∧ (write = false ∨ ppl.toNat < 2)) ∨
        (m.osMode = false ∧ (ppl.toNat = 0 ∨ (ppl.toNat = 1 ∧ write = false))) := by
  unfold memcMode
  generalize m.osMode = os
  revert trans os ppl write
  decide

/-- Settles O44: the entries that match are the one, or none. -/
theorem memcTranslation : Obligations.MemcTranslation := by
  intro write a trans s memc normal low sized size
  have logical := busTarget_logical memc normal low write trans
  refine ⟨fun i only => ?single, fun no => ?none⟩
  case none => rw [logical, logicalTarget, matching_none low no]
  case single =>
    intro ppl allowed
    have permitted : permits (memcMode trans s.memc) s.memc.entries[i].ppl write = true ↔ allowed := permits_iff ..
    rw [logical, logicalTarget, matching_single low only]
    dsimp only
    refine ⟨fun yes => ?_, fun no => if_neg (mt permitted.1 no)⟩
    rw [if_pos (permitted.2 yes), ramTarget, if_pos sized]
    rfl

/-! ## The translator write (R315) -/

/-- The number that bits `bits` of an address make, highest first. -/
def bitsNum (a : Addr) (bits : List Nat) : Nat := bits.foldl (fun x k => 2 * x + if a.getLsbD k then 1 else 0) 0

/-- The `l` bits of an address from `s` up, highest first. -/
def bitsFrom (s : Nat) : Nat → List Nat
  | 0 => []
  | l + 1 => (s + l) :: bitsFrom s l

theorem bitsNum_append (a : Addr) (l r : List Nat) : bitsNum a (l ++ r) = bitsNum a l * 2 ^ r.length + bitsNum a r := by
  induction r using List.reverseRecOn with
  | nil => simp [bitsNum]
  | append_singleton r k ih =>
    simp only [bitsNum, ← List.append_assoc, List.foldl_append, List.foldl_cons, List.foldl_nil, List.length_append,
      List.length_singleton] at ih ⊢
    rw [ih, Nat.pow_succ]
    ring

theorem bitsNum_cons (a : Addr) (k : Nat) (r : List Nat) :
    bitsNum a (k :: r) = (if a.getLsbD k then 1 else 0) * 2 ^ r.length + bitsNum a r := by
  rw [← List.singleton_append, bitsNum_append]
  simp [bitsNum]

theorem bitsNum_lt (a : Addr) (l : List Nat) : bitsNum a l < 2 ^ l.length := by
  induction l with
  | nil => exact Nat.one_pos
  | cons k r ih =>
    rw [bitsNum_cons, List.length_cons, Nat.pow_succ]
    split <;> omega

theorem bitsNum_eq_iff (a b : Addr) (l : List Nat) :
    bitsNum a l = bitsNum b l ↔ ∀ k ∈ l, a.getLsbD k = b.getLsbD k := by
  induction l with
  | nil => simp [bitsNum]
  | cons k r ih =>
    have la := bitsNum_lt a r
    have lb := bitsNum_lt b r
    rw [List.forall_mem_cons, ← ih, bitsNum_cons, bitsNum_cons]
    cases a.getLsbD k <;> cases b.getLsbD k <;> simp <;> omega

theorem bitsFrom_length (s l : Nat) : (bitsFrom s l).length = l := by
  induction l with
  | zero => rfl
  | succ l ih => rw [bitsFrom, List.length_cons, ih]

theorem toNat_field_eq_bitsNum (a : Addr) (s l : Nat) : (field a s l).toNat = bitsNum a (bitsFrom s l) := by
  induction l with
  | zero => simp [bitsNum, bitsFrom]
  | succ l ih =>
    rw [bitsFrom, bitsNum_cons, bitsFrom_length, ← ih]
    have top : a.getLsbD (s + l) = decide (a.toNat >>> s / 2 ^ l % 2 = 1) := by
      rw [BitVec.getLsbD, ← Nat.testBit_shiftRight, Nat.testBit_eq_decide_div_mod_eq]
    rw [top, field, field, BitVec.extractLsb'_toNat, BitVec.extractLsb'_toNat, Nat.mod_pow_succ]
    obtain h | h := Nat.mod_two_eq_zero_or_one (a.toNat >>> s / 2 ^ l) <;> rw [h] <;> simp [Nat.add_comm]

/-- Bits written one after another. -/
theorem toNat_append_bits {a : Addr} {m n : Nat} {x : BitVec m} {y : BitVec n} {l r : List Nat}
    (hx : x.toNat = bitsNum a l) (hy : y.toNat = bitsNum a r) (hr : r.length = n) :
    (x ++ y).toNat = bitsNum a (l ++ r) := by
  rw [toNat_append_eq, hx, hy, bitsNum_append, hr]

/-- The bits of the address that name the entry and the logical page, by page size (R315). -/
def translatorRow (size : BitVec 2) : List Nat × List Nat :=
  match size with
  | 0#2 => ([6, 5, 4, 3, 2, 1, 0], [11, 10, 22, 21, 20, 19, 18, 17, 16, 15, 14, 13, 12])
  | 1#2 => ([0, 6, 5, 4, 3, 2, 1], [11, 10, 22, 21, 20, 19, 18, 17, 16, 15, 14, 13])
  | 2#2 => ([1, 0, 6, 5, 4, 3, 2], [11, 10, 22, 21, 20, 19, 18, 17, 16, 15, 14])
  | 3#2 => ([1, 2, 0, 6, 5, 4, 3], [11, 10, 22, 21, 20, 19, 18, 17, 16, 15])

theorem pageSize_cases (size : BitVec 2) : size = 0#2 ∨ size = 1#2 ∨ size = 2#2 ∨ size = 3#2 := by
  revert size; decide

theorem translatorPpn_bits (size : BitVec 2) (a : Addr) :
    (translatorPpn size a).toNat = bitsNum a (translatorRow size).1 := by
  have run := toNat_field_eq_bitsNum a
  obtain rfl | rfl | rfl | rfl := pageSize_cases size
  · exact run 0 7
  · exact toNat_append_bits (run 0 1) (run 1 6) rfl
  · exact toNat_append_bits (run 0 2) (run 2 5) rfl
  · exact toNat_append_bits (toNat_append_bits (toNat_append_bits (run 1 1) (run 2 1) rfl) (run 0 1) rfl) (run 3 4) rfl

theorem translatorLpn_bits (size : BitVec 2) (a : Addr) :
    translatorLpn size a = BitVec.ofNat 13 (bitsNum a (translatorRow size).2) := by
  have run := toNat_field_eq_bitsNum a
  have bits : (translatorLpn size a).toNat = bitsNum a (translatorRow size).2 := by
    obtain rfl | rfl | rfl | rfl := pageSize_cases size
    · exact toNat_append_bits (run 10 2) (run 12 11) rfl
    all_goals
      refine toNat_append_bits (toNat_append_bits (l := []) ?_ (run 10 2) rfl) (run _ _) rfl
      rfl
  rw [← bits, BitVec.ofNat_toNat, BitVec.setWidth_eq]

/-- Every page size uses the same seven bits for the entry. -/
theorem translatorRow_perm (size : BitVec 2) : (translatorRow size).1.Perm (bitsFrom 0 7) := by
  revert size; decide

/-- What an accepted translator write does, by page size. -/
theorem writeTranslator_entries {a : Addr} (s : State) (h : bit a 7 = false) :
    ∃ t, writeTranslator a s = .done () t ∧ t.mem = s.mem ∧ ∀ j : Fin 128, t.memc.entries[j] =
      if j.val = (translatorPpn s.memc.pageSize a).toNat then ⟨translatorLpn s.memc.pageSize a, field a 8 2⟩
      else s.memc.entries[j] := by
  refine ⟨_, if_neg (ne_true_of_eq_false h), rfl, fun j => ?_⟩
  simp only [Fin.getElem_fin, Vector.getElem_set, eq_comm (a := j.val)]
  rfl

/-- Settles O47: the fields of the row of R315, as the bits they consist of. -/
theorem translatorWrite : Obligations.TranslatorWrite := by
  refine ⟨?fields, ?rows, ?entries, fun a s h => if_pos h⟩
  case fields =>
    intro lpn ppl ppn s size a
    have free : bit a 7 = false :=
      (bit_append_high _ ppn 7 (by decide)).trans (bit_append_low _ 0#1 0 (by decide))
    have entry : field a 0 7 = ppn := (field_append_low _ ppn 0 7 (by decide)).trans BitVec.extractLsb'_eq_self
    have above (s l : Nat) (h : 8 ≤ s) :
        field a s l = field (7#3 ++ field lpn 0 11 ++ field lpn 11 2 ++ ppl) (s - 8) l := by
      rw [field, field_append_high _ ppn s l (by omega), field_append_high _ 0#1 _ _ (by omega), Nat.sub_sub]
    have level : field a 8 2 = ppl := by
      rw [above 8 2 (by decide), field, field_append_low _ ppl 0 2 (by decide), BitVec.extractLsb'_eq_self]
    have page : field a 10 2 ++ field a 12 11 = lpn := by
      rw [above 10 2 (by decide), above 12 11 (by decide)]
      refine (append_eq_iff (a := 2) (b := 11) _ _ lpn).2 ⟨?_, ?_⟩
      · rw [field, field_append_high _ ppl _ _ (by decide), field_append_low _ (field lpn 11 2) 0 2 (by decide),
          BitVec.extractLsb'_eq_self]
      · rw [field, field_append_high _ ppl _ _ (by decide), field_append_high _ (field lpn 11 2) _ _ (by decide),
          field_append_low _ (field lpn 0 11) 0 11 (by decide), BitVec.extractLsb'_eq_self]
    obtain ⟨t, done, mem, entries⟩ := writeTranslator_entries s free
    refine ⟨t, done, mem, fun j => ?_⟩
    rw [entries, size, level]
    simp only [translatorPpn, translatorLpn, entry, page]
  case rows =>
    intro a s free num row
    obtain ⟨t, done, mem, entries⟩ := writeTranslator_entries s free
    have same : row = translatorRow s.memc.pageSize := rfl
    refine ⟨t, done, mem, fun j => ?_⟩
    rw [entries, translatorPpn_bits, translatorLpn_bits, same]
    rfl
  case entries =>
    intro size a b
    rw [← BitVec.toNat_inj, ← BitVec.toNat_inj, translatorPpn_bits, translatorPpn_bits, toNat_field_eq_bitsNum,
      toNat_field_eq_bitsNum, bitsNum_eq_iff, bitsNum_eq_iff]
    exact forall_congr' fun k => imp_congr (translatorRow_perm size).mem_iff Iff.rfl

/-! ## The boot states (R308) -/

theorem field_24_eq_zero_iff (a : Addr) : field a 24 2 = 0#2 ↔ a.toNat < 0x1000000 := by
  have := a.isLt
  rw [← BitVec.toNat_inj, field, BitVec.extractLsb'_toNat, Nat.shiftRight_eq_div_pow, BitVec.toNat_ofNat]
  omega

theorem bit_25_iff (a : Addr) : bit a 25 = true ↔ 0x2000000 ≤ a.toNat := by
  have := a.isLt
  rw [bit, BitVec.getLsbD, Nat.testBit_eq_decide_div_mod_eq, decide_eq_true_iff]
  omega

theorem bootNext_eq (a : Addr) :
    bootNext a .boot0 = (if a.toNat < 0x1000000 then .boot1 else .boot0) ∧
      bootNext a .boot1 = (if 0x2000000 ≤ a.toNat then .normal else .boot1) ∧ bootNext a .normal = .normal :=
  ⟨if_congr (field_24_eq_zero_iff a) rfl rfl, if_congr (bit_25_iff a) rfl rfl, rfl⟩

/-- A read in a boot state reaches ROM, whatever its address (R308, D28). -/
theorem busTarget_boot {a : Addr} {s : State} (memc : s.plat.hasMemc = true)
    (boot : bootNext a s.memc.boot ≠ .normal) (trans : Bool) :
    busTarget false a trans s =
      .done (.memory (0x3800000 + (alignWord a).toNat % 0x800000 % s.plat.romHighLen)) (bootStep a s) := by
  rw [busTarget, if_pos memc, memcTarget]
  exact if_pos ⟨boot, rfl⟩

/-! ## The control and DMA registers (R309, R320) -/

/-- MEMC after a write of the control register at `a`, with these entries. -/
def controlWritten (a : Addr) (entries : Vector PageEntry 128) (f : Nat) (s : State) : State :=
  { s with
    free := f
    memc := { s.memc with
      pageSize := field a 2 2, entries := entries, lowRom := field a 4 2, highRom := field a 6 2
      refresh := field a 8 2, videoDma := bit a 10, soundDma := bit a 11, osMode := bit a 12, testMode := bit a 13 } }

/-- Its outcome: test mode holds the clocks (U34). -/
def controlOutcome (a : Addr) (t : State) : Bus Unit :=
  if bit a 13 then .held { t with held := some .memcTestMode } else .done () t

theorem writeMemcRegister_control {a : Addr} (code : field a 17 3 = 7#3) (s : State) :
    writeMemcRegister a s = writeMemcControl a s := by
  rw [writeMemcRegister, code]
  rfl

theorem writeMemcControl_same {a : Addr} {s : State} (same : field a 2 2 = s.memc.pageSize) :
    writeMemcControl a s = controlOutcome a (controlWritten a s.memc.entries s.free s) := by
  simp only [writeMemcControl, setPageSize, same, if_true, controlOutcome, controlWritten, hold]

theorem writeMemcControl_changed {a : Addr} {s : State} (changed : field a 2 2 ≠ s.memc.pageSize) :
    writeMemcControl a s =
      controlOutcome a (controlWritten a (freeEntries (field a 2 2) s.free) (s.free + 1) s) := by
  simp only [writeMemcControl, setPageSize, if_neg changed.symm, scrambleTranslator, controlOutcome, controlWritten, hold]

/-- Settles O46: the answer of the decode in a boot state, and the registers by their code. -/
theorem memcBootAndControl : Obligations.MemcBootAndControl := by
  refine ⟨fun a trans s memc boot => busTarget_boot memc boot trans, bootNext_eq, ?control, ?codes⟩
  case control =>
    intro a s code written out
    refine ⟨fun same => ?_, fun changed => ⟨freeEntries (field a 2 2) s.free, s.free + 1, freeEntries_wf _ _, ?_⟩⟩
    · exact (writeMemcRegister_control code s).trans (writeMemcControl_same same)
    · exact (writeMemcRegister_control code s).trans (writeMemcControl_changed changed)
  case codes =>
    intro a s v m put
    refine ⟨?_, ?_, ?_, ?_, ?_, ?_, ?_⟩
    all_goals
      intro code
      rw [writeMemcRegister, code]
      rfl

end Sys2Proof.Machine
end

section
/-! PROOFS. The DMA generators of MEMC (51_memc.md R313-R335) and the register write of VIDC (52_vidc.md R350-R376). -/

namespace Sys2Proof.Machine

/-! ## When a burst is due (R322, R326, R329, R335, R386) -/

/-- A programmed VIDC is in the vertical sync pulse (R386), or in the dummy raster in which it ends (R384). -/
def Vidc.InSync (v : Vidc) : Prop := v.programmed = true ∧ (v.dummyRow = true ∨ v.vcount.toNat ≤ v.vswr.toNat)

theorem Vidc.vdrqLow_iff (v : Vidc) :
    v.vdrqLow = true ↔ ¬ v.InSync ∧ (v.videoWanted ≠ 0#2 ∨ v.cursorWanted = true) := by
  simp only [Vidc.vdrqLow, Vidc.InSync, Vidc.syncRow, Bool.and_eq_true, Bool.not_eq_true', Bool.or_eq_true, bne_iff_ne,
    ← Bool.not_eq_true, decide_eq_true_eq]

theorem Vidc.vdrqLow_of_idle {v : Vidc} (video : v.videoWanted = 0#2) (cursor : v.cursorWanted = false) :
    v.vdrqLow = false := by
  simp [Vidc.vdrqLow, video, cursor]

/-- No video or cursor burst stands to be done. -/
def ScreenQuiet (s : State) : Prop :=
  s.memc.videoDma = false ∨ s.vidc.InSync ∨ (s.vidc.videoWanted = 0#2 ∧ s.vidc.cursorWanted = false)

section
variable {s : State} (possible : dmaPossible s = true)
include possible

theorem screenDue_iff :
    screenDue s = true ↔
      s.memc.videoDma = true ∧ ¬ s.vidc.InSync ∧ (s.vidc.videoWanted ≠ 0#2 ∨ s.vidc.cursorWanted = true) := by
  rw [screenDue, possible, Bool.true_and, Bool.and_eq_true, Vidc.vdrqLow_iff]

theorem screenDue_eq_false_iff : screenDue s = false ↔ ScreenQuiet s := by
  rw [← Bool.not_eq_true, screenDue_iff possible, ScreenQuiet, not_and_or, not_and_or, not_not, not_or, not_not,
    Bool.not_eq_true, Bool.not_eq_true]

theorem soundDue_iff : soundDue s = true ↔ s.memc.soundDma = true ∧ s.vidc.soundWanted = true := by
  rw [soundDue, possible, Bool.true_and, Bool.and_eq_true]

theorem soundDue_eq_false_iff : soundDue s = false ↔ s.memc.soundDma = false ∨ s.vidc.soundWanted = false := by
  rw [← Bool.not_eq_true, soundDue_iff possible, not_and_or, Bool.not_eq_true, Bool.not_eq_true]

theorem refreshDue_iff :
    refreshDue s = true ↔ s.memc.refresh = 3#2 ∨ (s.memc.refresh = 1#2 ∧ s.vidc.flbk = true) := by
  simp only [dmaPossible, Bool.and_eq_true] at possible
  obtain ⟨⟨memc, -⟩, normal⟩ := possible
  simp [refreshDue, memc, normal]

end

/-! ## What a burst moves (R321) -/

/-- The four words at 16 times a pointer. -/
def dmaWords (p : BitVec 15) (s : State) : List Word :=
  [0, 4, 8, 12].map fun k => s.mem.readWord (0x2000000 + (p.toNat * 16 + k) % s.plat.ram.bytes)

theorem physBlock_eq {s : State} (sized : s.memc.pageSize = s.plat.ram.pageCode) (p : BitVec 15) :
    physBlock p s = (dmaWords p s, s) := by
  have word (pa : Nat) : physWord pa s = (s.mem.readWord (ramLocation s.plat pa), s) := if_pos sized
  simp only [physBlock, word]
  rfl

/-! ## The four cycles -/

section
variable {s : State}

theorem videoDma_due (due : screenDue s = true) (chosen : s.memc.cursorNext = false) (wanted : s.vidc.videoWanted ≠ 0#2)
    (sized : s.memc.pageSize = s.plat.ram.pageCode) :
    videoDma s = { s with
      vidc := { s.vidc with
        videoFifo := fifoPush 8 s.vidc.videoFifo (dmaWords s.memc.vptr s), videoWanted := s.vidc.videoWanted - 1#2 }
      memc := { s.memc with
        vptr := if s.memc.vptr = s.memc.vend then s.memc.vstart else s.memc.vptr + 1, cursorNext := s.vidc.hsync } } := by
  have go : (screenDue s && !s.memc.cursorNext) = true := by rw [due, chosen]; rfl
  have answered : s.vidc.answerVideo = { s.vidc with videoWanted := s.vidc.videoWanted - 1#2 } := if_neg wanted
  rw [videoDma, if_pos go, physBlock_eq sized]
  simp only [answered]

theorem videoDma_idle (idle : screenDue s = false ∨ s.memc.cursorNext = true) : videoDma s = s := by
  refine if_neg (ne_true_of_eq_false ?_)
  obtain h | h := idle <;> rw [h]
  · rfl
  · exact Bool.and_false _

theorem cursorDma_due (due : screenDue s = true) (chosen : s.memc.cursorNext = true)
    (wanted : s.vidc.cursorWanted = true) (sized : s.memc.pageSize = s.plat.ram.pageCode) :
    cursorDma s = { s with
      vidc := { s.vidc with
        cursorFifo := fifoPush 4 s.vidc.cursorFifo (dmaWords s.memc.cptr s), cursorWanted := false }
      memc := { s.memc with cptr := s.memc.cptr + 1, cursorNext := s.vidc.hsync } } := by
  have go : (screenDue s && s.memc.cursorNext) = true := by rw [due, chosen]; rfl
  have answered : s.vidc.answerCursor = { s.vidc with cursorWanted := false } := if_pos wanted
  rw [cursorDma, if_pos go, physBlock_eq sized]
  simp only [answered]

theorem cursorDma_idle (idle : screenDue s = false ∨ s.memc.cursorNext = false) : cursorDma s = s := by
  refine if_neg (ne_true_of_eq_false ?_)
  obtain h | h := idle <;> rw [h]
  · rfl
  · exact Bool.and_false _

theorem soundDma_due (due : soundDue s = true) (screen : screenDue s = false)
    (sized : s.memc.pageSize = s.plat.ram.pageCode) :
    soundDma s = { s with
      vidc := { s.vidc with
        soundFifo := fifoPush 4 s.vidc.soundFifo (dmaWords s.memc.sptr s), soundWanted := false }
      memc := s.memc.soundNext } := by
  have go : (soundDue s && !screenDue s) = true := by rw [due, screen]; rfl
  rw [soundDma, if_pos go, physBlock_eq sized]

theorem soundDma_idle (idle : soundDue s = false ∨ screenDue s = true) : soundDma s = s := by
  refine if_neg (ne_true_of_eq_false ?_)
  obtain h | h := idle <;> rw [h]
  · rfl
  · exact Bool.and_false _

theorem refreshTick_due (due : refreshDue s = true) (screen : screenDue s = false) (sound : soundDue s = false) :
    refreshTick s = { s with memc := { s.memc with vptr := s.memc.vptr + 1 } } :=
  if_pos (by rw [due, screen, sound]; rfl)

theorem refreshTick_idle (idle : screenDue s = true ∨ soundDue s = true ∨ refreshDue s = false) : refreshTick s = s := by
  refine if_neg (ne_true_of_eq_false ?_)
  obtain h | h | h := idle <;> rw [h]
  · rw [Bool.not_true, Bool.and_false, Bool.false_and]
  · exact Bool.and_false _
  · rfl

end

/-- Settles O48: which bursts are due, and what the one that is done moves. -/
theorem dmaTransfers : Obligations.DmaTransfers := by
  refine ⟨?bursts, ?burstKind⟩
  case bursts =>
    intro s memc vidc normal sized m words inSync quiet
    have possible : dmaPossible s = true := by simp [dmaPossible, memc, vidc, normal]
    have due := screenDue_iff possible
    have notDue : screenDue s = false ↔ quiet := screenDue_eq_false_iff possible
    have isDue : ¬ quiet → screenDue s = true := fun h => eq_true_of_ne_false (mt notDue.1 h)
    have sound := soundDue_iff possible
    have noSound := soundDue_eq_false_iff possible
    have refresh := refreshDue_iff possible
    refine ⟨?video, ?cursor, fun no => videoDma_idle (no.imp_left notDue.2), fun no => cursorDma_idle (no.imp_left notDue.2),
      ?sound, ?noSound, ?refresh, ?noRefresh⟩
    case video =>
      exact fun enabled running wanted chosen =>
        videoDma_due (due.2 ⟨enabled, running, .inl wanted⟩) chosen wanted sized
    case cursor =>
      exact fun enabled running wanted chosen =>
        cursorDma_due (due.2 ⟨enabled, running, .inr wanted⟩) chosen wanted sized
    case sound => exact fun enabled wanted no => soundDma_due (sound.2 ⟨enabled, wanted⟩) (notDue.2 no) sized
    case noSound =>
      rintro (h | h | h)
      · exact soundDma_idle (.inl (noSound.2 (.inl h)))
      · exact soundDma_idle (.inl (noSound.2 (.inr h)))
      · exact soundDma_idle (.inr (isDue h))
    case refresh => exact fun no unwanted mode => refreshTick_due (refresh.2 mode) (notDue.2 no) (noSound.2 unwanted)
    case noRefresh =>
      exact fun no => refreshTick_idle (no.imp isDue (Or.imp sound.2 fun h => eq_false_of_ne_true (mt refresh.1 h)))
  case burstKind =>
    intro before s idle wanted notInSync
    have falls : (!before.vidc.vdrqLow && s.vidc.vdrqLow) = true := by
      rw [Vidc.vdrqLow_of_idle idle.1 idle.2, s.vidc.vdrqLow_iff.2 ⟨notInSync, wanted⟩]
      rfl
    exact if_pos falls

/-! ## The registers of VIDC by the number of their address (R350, R351) -/

section
variable (d : Word)

theorem toNat_field_number {s l : Nat} (low : 26 ≤ s) :
    (field d s l).toNat = d.toNat / 2 ^ 26 / 2 ^ (s - 26) % 2 ^ l := by
  rw [field, BitVec.extractLsb'_toNat, Nat.shiftRight_eq_div_pow, Nat.div_div_eq_div_mul, ← Nat.pow_add,
    Nat.add_sub_cancel' low]

theorem vidcNumber_toNat : (vidcNumber d).toNat = d.toNat / 2 ^ 26 := by
  have := d.isLt
  rw [vidcNumber, toNat_field_number d (by decide)]
  omega

variable {d}

/-- A number is eight times its group and its place in it. -/
theorem vidcFields_of_number {g l : BitVec 3} {n : Nat} (hn : n = 8 * g.toNat + l.toNat)
    (hk : d.toNat / 2 ^ 26 = n) : field d 29 3 = g ∧ field d 26 3 = l := by
  have := g.isLt
  have := l.isLt
  have h := hk.trans hn
  refine ⟨BitVec.eq_of_toNat_eq ?_, BitVec.eq_of_toNat_eq ?_⟩ <;> rw [toNat_field_number d (by decide), h] <;> omega

theorem vidcTestMode_eq_false (h : d.toNat / 2 ^ 26 ≠ 56 ∨ field d 14 2 = 0#2) : vidcTestMode d = false := by
  obtain other | normal := h
  · have number : vidcNumber d ≠ 56#6 := fun e => other ((vidcNumber_toNat d).symm.trans (congrArg BitVec.toNat e))
    simp [vidcTestMode, number]
  · simp [vidcTestMode, normal]

/-- The word `d` sets VIDC to `x`, and marks the register as written. -/
def Puts (d : Word) (s : State) (x : Vidc) : Prop :=
  writeVidc d s = .done () { s with vidc := { x with written := x.written ||| (1#64 <<< (d.toNat / 2 ^ 26)) } }

/-- A word for a register that is there does to it what R351 says. -/
theorem puts_of_put {s : State} {x : Vidc} (mode : d.toNat / 2 ^ 26 ≠ 56 ∨ field d 14 2 = 0#2)
    (there : vidcReserved d = false) (put : s.vidc.put d = x) : Puts d s x := by
  rw [Puts, writeVidc, vidcTestMode_eq_false mode, there, vidcNumber_toNat, put]
  rfl

variable {s : State}

theorem puts_palette {i : Fin 16} (hk : d.toNat / 2 ^ 26 = i.val) :
    Puts d s { s.vidc with palette := s.vidc.palette.set i (field d 0 13) } := by
  have := i.isLt
  have index : (field d 26 4).toFin = i := Fin.ext ((toNat_field_number d (by decide)).trans (by omega))
  have group : (field d 29 3).toNat = i.val / 8 := (toNat_field_number d (by decide)).trans (by omega)
  have cases : field d 29 3 = 0#3 ∨ field d 29 3 = 1#3 := by
    simp only [← BitVec.toNat_inj, group, BitVec.toNat_ofNat]
    omega
  refine puts_of_put (.inl (by omega)) ?_ ?_
  · rw [vidcReserved]
    obtain h | h := cases <;> rw [h] <;> rfl
  · rw [Vidc.put]
    simp only [index]
    obtain h | h := cases <;> rw [h] <;> rfl

theorem puts_border (hk : d.toNat / 2 ^ 26 = 16) : Puts d s { s.vidc with border := field d 0 13 } := by
  obtain ⟨group, low⟩ := vidcFields_of_number (g := 2#3) (l := 0#3) (by decide) hk
  refine puts_of_put (.inl (by omega)) ?_ ?_
  · rw [vidcReserved, group, low]; rfl
  · simp only [Vidc.put, group, low]
    rfl

theorem puts_cursor {i : Fin 3} (hk : d.toNat / 2 ^ 26 = 17 + i.val) :
    Puts d s { s.vidc with cursor := s.vidc.cursor.set i (field d 0 13) } := by
  have place : ∀ i : Fin 3, 17 + i.val = 8 * (2#3).toNat + (BitVec.ofNat 3 (1 + i.val)).toNat := by decide
  obtain ⟨group, low⟩ : field d 29 3 = 2#3 ∧ field d 26 3 = BitVec.ofNat 3 (1 + i.val) :=
    vidcFields_of_number (place i) hk
  refine puts_of_put (.inl (by omega)) ?_ ?_
  · rw [vidcReserved, group, low]
    match i with
    | 0 | 1 | 2 => rfl
  · simp only [Vidc.put, group, low]
    match i with
    | 0 | 1 | 2 => rfl

/-- The place in a group, where it names one of eight registers. -/
theorem vidcGroup_index {g : BitVec 3} {i : Fin 8} {n : Nat} (hn : n = 8 * g.toNat)
    (hk : d.toNat / 2 ^ 26 = n + i.val) : field d 29 3 = g ∧ field d 26 3 = BitVec.ofFin i :=
  vidcFields_of_number (congrArg (· + i.val) hn) hk

theorem puts_stereo {i : Fin 8} (hk : d.toNat / 2 ^ 26 = 24 + (i.val + 1) % 8) :
    Puts d s { s.vidc with stereo := s.vidc.stereo.set i (field d 0 3) } := by
  obtain ⟨group, low⟩ := vidcGroup_index (g := 3#3) (i := i + 1) (n := 24) (by decide) (hk.trans (by rw [Fin.val_add]; rfl))
  have channel : (stereoChannel (field d 26 3)).toFin = i := by
    have shifted : ∀ i : Fin 8, (stereoChannel (BitVec.ofFin (i + 1))).toFin = i := by decide
    rw [low, shifted]
  refine puts_of_put (.inl (by omega)) ?_ ?_
  · rw [vidcReserved, group]; rfl
  · rw [Vidc.put, group]
    simp only [channel]

theorem puts_horiz {i : Fin 8} (other : i ≠ 6) (hk : d.toNat / 2 ^ 26 = 32 + i.val) :
    Puts d s { s.vidc with horiz := s.vidc.horiz.set i (field d 14 10) } := by
  obtain ⟨group, low⟩ := vidcGroup_index (g := 4#3) (by decide) hk
  have cursorStart : BitVec.ofFin i ≠ 6#3 := fun e => other (congrArg BitVec.toFin e)
  refine puts_of_put (.inl (by omega)) ?_ ?_
  · rw [vidcReserved, group]; rfl
  · simp only [Vidc.put, group, low, if_neg cursorStart]

theorem puts_hcsr (hk : d.toNat / 2 ^ 26 = 38) : Puts d s { s.vidc with hcsr := field d 11 13 } := by
  obtain ⟨group, low⟩ := vidcFields_of_number (g := 4#3) (l := 6#3) (by decide) hk
  refine puts_of_put (.inl (by omega)) ?_ ?_
  · rw [vidcReserved, group]; rfl
  · simp only [Vidc.put, group, low, if_true]

theorem puts_vert {i : Fin 8} (hk : d.toNat / 2 ^ 26 = 40 + i.val) :
    Puts d s { s.vidc with vert := s.vidc.vert.set i (field d 14 10) } := by
  obtain ⟨group, low⟩ := vidcGroup_index (g := 5#3) (by decide) hk
  refine puts_of_put (.inl (by omega)) ?_ ?_
  · rw [vidcReserved, group]; rfl
  · simp only [Vidc.put, group, low]

theorem puts_sfr (hk : d.toNat / 2 ^ 26 = 48) : Puts d s (s.vidc.writeSfr (field d 0 9)) := by
  obtain ⟨group, low⟩ := vidcFields_of_number (g := 6#3) (l := 0#3) (by decide) hk
  refine puts_of_put (.inl (by omega)) ?_ ?_
  · rw [vidcReserved, group, low]; rfl
  · rw [Vidc.put, group]; rfl

theorem puts_cr (hk : d.toNat / 2 ^ 26 = 56) (normal : field d 14 2 = 0#2) :
    Puts d s { s.vidc with cr := 0#2 ++ field d 0 9 } := by
  obtain ⟨group, low⟩ := vidcFields_of_number (g := 7#3) (l := 0#3) (by decide) hk
  refine puts_of_put (.inr normal) ?_ ?_
  · rw [vidcReserved, group, low]; rfl
  · rw [Vidc.put, group]
    simp only [normal]

/-- The 18 reserved addresses (R352). -/
theorem vidcReserved_of_number (hk : (20 ≤ d.toNat / 2 ^ 26 ∧ d.toNat / 2 ^ 26 < 24) ∨
    (49 ≤ d.toNat / 2 ^ 26 ∧ d.toNat / 2 ^ 26 < 56) ∨ 57 ≤ d.toNat / 2 ^ 26) : vidcReserved d = true := by
  have := d.isLt
  have group {g : BitVec 3} (h : d.toNat / 2 ^ 26 / 8 = g.toNat) : field d 29 3 = g :=
    BitVec.eq_of_toNat_eq ((toNat_field_number d (by decide)).trans (by omega))
  have low : (field d 26 3).toNat = d.toNat / 2 ^ 26 % 8 := (toNat_field_number d (by decide)).trans (by omega)
  have later (h : 0 < d.toNat / 2 ^ 26 % 8) : field d 26 3 ≠ 0#3 := fun e => by
    rw [e, BitVec.toNat_ofNat] at low
    omega
  rw [vidcReserved]
  obtain h | h | h := hk
  · rw [group (g := 2#3) (by rw [BitVec.toNat_ofNat]; omega)]
    exact decide_eq_true (by omega)
  · rw [group (g := 6#3) (by rw [BitVec.toNat_ofNat]; omega)]
    exact bne_iff_ne.2 (later (by omega))
  · rw [group (g := 7#3) (by rw [BitVec.toNat_ofNat]; omega)]
    exact bne_iff_ne.2 (later (by omega))

end

/-- Settles O49: the registers of each group, the test modes, and the reserved addresses. -/
theorem vidcRegisters : Obligations.VidcRegisters := by
  intro d s v k puts
  refine ⟨fun i => puts_palette, puts_border, fun i => puts_cursor, fun i => puts_stereo, fun i => puts_horiz, puts_hcsr,
    fun i => puts_vert, ?running, ?cleared, puts_cr, ?testMode, ?reserved⟩
  case running =>
    intro hk before after
    have timed : s.vidc.writeSfr (field d 0 9) = { s.vidc with sfr := field d 0 9 } :=
      if_pos (by rw [before, bit_field d (by decide), after]; rfl)
    exact timed ▸ puts_sfr hk
  case cleared =>
    intro hk off
    have cleared : s.vidc.writeSfr (field d 0 9) = Vidc.clearTiming { s.vidc with sfr := field d 0 9 } := by
      refine if_neg fun on => ?_
      rw [bit_field d (by decide), Bool.and_eq_true] at on
      obtain off | off := off
      · exact absurd on.1 (ne_true_of_eq_false off)
      · exact absurd on.2 (ne_true_of_eq_false off)
    have written := puts_sfr (s := s) hk
    rw [cleared] at written
    exact written
  case testMode =>
    intro hk test
    have number : vidcNumber d = 56#6 := BitVec.eq_of_toNat_eq ((vidcNumber_toNat d).trans hk)
    refine if_pos ?_
    simp [vidcTestMode, number, test]
  case reserved =>
    intro hk
    have normal : vidcTestMode d = false := vidcTestMode_eq_false (.inl (by omega))
    refine ⟨s.vidc.scrambleRegisters s.free, s.free + 1, ?_⟩
    rw [writeVidc, normal, vidcReserved_of_number hk]
    rfl

end Sys2Proof.Machine
end

section
/-! PROOFS. IOC's timers and keyboard link (53_ioc.md R420-R431): what one tick and one reload do, and how many of them make a
period, a reception and a transmission. -/

namespace Sys2Proof.Machine

/-! ## Timers (R421-R425) -/

theorem timers_setTimer_same (n : Fin 4) (x : Timer) (s : State) : (setTimer n x s).ioc.timers[n] = x := by
  simp [setTimer]

theorem timers_setTimer_other {m n : Fin 4} (h : m ≠ n) (x : Timer) (s : State) :
    (setTimer n x s).ioc.timers[m] = s.ioc.timers[m] := by
  have apart : n.val ≠ m.val := fun e => h (Fin.ext e.symm)
  simp [setTimer, Vector.getElem_set_ne, apart]

theorem setTimer_self (n : Fin 4) (s : State) : setTimer n s.ioc.timers[n] s = s := by
  have same : s.ioc.timers.set n s.ioc.timers[n] = s.ioc.timers := Vector.set_getElem_self n.isLt
  rw [setTimer, same]

theorem setTimer_setTimer (n : Fin 4) (x y : Timer) (s : State) : setTimer n x (setTimer n y s) = setTimer n x s := by
  have same : (s.ioc.timers.set n y).set n x = s.ioc.timers.set n x := Vector.set_set ..
  simp only [setTimer, same]

/-- A reload event changes no timer. -/
theorem latchEvent_timers (k : Fin 5) (s : State) : (latchEvent k s).ioc.timers = s.ioc.timers := by
  unfold latchEvent
  dsimp only
  repeat' split
  all_goals rfl

theorem received_timers (b : Byte) (s : State) : (received b s).ioc.timers = s.ioc.timers := by
  unfold received
  cases s.ioc.rxDoubtful <;> rfl

theorem clockRx_timers (s : State) : (clockRx s).ioc.timers = s.ioc.timers := by
  unfold clockRx
  split
  · rfl
  · dsimp only
    split
    · exact received_timers _ _
    · rfl

theorem Ioc.clockTx_timers (i : Ioc) : i.clockTx.timers = i.timers := by
  unfold Ioc.clockTx
  split
  · rfl
  · split <;> rfl

theorem reloadEvent_timers (n : Fin 4) (s : State) : (reloadEvent n s).ioc.timers = s.ioc.timers := by
  unfold reloadEvent
  repeat' split
  · exact latchEvent_timers 3 s
  · exact latchEvent_timers 4 s
  · rfl
  · exact (clockRx_timers _).trans s.ioc.clockTx_timers

theorem underflow_timers (n : Fin 4) (s : State) : (underflow n s).ioc.timers = s.ioc.timers := by
  unfold underflow
  dsimp only
  repeat' split
  · exact reloadEvent_timers n (drawWord s).2
  · rfl
  · exact reloadEvent_timers n s

theorem underflow_of_latch {n : Fin 4} {s : State} (h : s.ioc.timers[n].inLatch ≠ 0#16) :
    underflow n s = reloadEvent n s := if_neg h

/-- An event on a latch bit that the last access did not clear in the same instant sets it (R407). -/
theorem latchEvent_latA {k : Fin 5} {s : State} (h : s.ioc.coinciding = false ∨ bit s.ioc.lastClear k = false) :
    (latchEvent k s).ioc.latA = s.ioc.latA ||| (1#5 <<< k.val) := by
  have free : (s.ioc.coinciding && bit s.ioc.lastClear k) = false := by
    obtain h | h := h <;> rw [h]
    · rfl
    · exact Bool.and_false _
  rw [latchEvent, free]
  rfl

/-- What the reload events of timers 0 to 2 do: an interrupt latch, or BAUD (R422, R423). -/
theorem reloadEvent_effects (n : Fin 4) (s : State) :
    (n = 2 → (reloadEvent n s).ioc.baud = !s.ioc.baud) ∧
    (n = 0 → s.ioc.coinciding = false ∨ bit s.ioc.lastClear 3 = false →
      (reloadEvent n s).ioc.latA = s.ioc.latA ||| 0b01000#5) ∧
    (n = 1 → s.ioc.coinciding = false ∨ bit s.ioc.lastClear 4 = false →
      (reloadEvent n s).ioc.latA = s.ioc.latA ||| 0b10000#5) := by
  refine ⟨?_, ?_, ?_⟩
  · rintro rfl
    rfl
  · rintro rfl quiet
    exact latchEvent_latA (k := 3) quiet
  · rintro rfl quiet
    exact latchEvent_latA (k := 4) quiet

theorem toNat_sub_ofNat {w : Nat} {x : BitVec w} {k : Nat} (h : k ≤ x.toNat) :
    (x - BitVec.ofNat w k).toNat = x.toNat - k := by
  have := x.isLt
  rw [BitVec.toNat_sub_of_le] <;> simp only [BitVec.le_def, BitVec.toNat_ofNat, Nat.mod_eq_of_lt (h.trans_lt x.isLt)]
  exact h

section
variable {n : Fin 4} {s : State}

theorem tickTimer_meets (coincides : s.ioc.coinciding = true) (go : bit s.ioc.lastGo n = true) :
    tickTimer n s = underflow n (setTimer n { s.ioc.timers[n] with extra := true } s) :=
  if_pos (by rw [coincides, go]; rfl)

variable (apart : s.ioc.coinciding = false)
include apart

theorem tickTimer_extra (extra : s.ioc.timers[n].extra = true) :
    tickTimer n s = setTimer n { s.ioc.timers[n] with extra := false } s := by
  rw [tickTimer, apart]
  exact if_pos extra

variable (ready : s.ioc.timers[n].extra = false)
include ready

theorem tickTimer_counts (counting : s.ioc.timers[n].counter ≠ 0#16) :
    tickTimer n s = setTimer n { s.ioc.timers[n] with counter := s.ioc.timers[n].counter - 1 } s := by
  rw [tickTimer, apart]
  dsimp only
  rw [ready]
  exact if_neg counting

theorem tickTimer_underflows (zero : s.ioc.timers[n].counter = 0#16) :
    tickTimer n s = underflow n (setTimer n { s.ioc.timers[n] with counter := s.ioc.timers[n].inLatch } s) := by
  rw [tickTimer, apart]
  dsimp only
  rw [ready]
  exact if_pos zero

/-- Ticks count down as long as the counter lasts. -/
theorem tickTimer_iterate {j : Nat} (hj : j ≤ s.ioc.timers[n].counter.toNat) :
    (tickTimer n)^[j] s =
      setTimer n { s.ioc.timers[n] with counter := s.ioc.timers[n].counter - BitVec.ofNat 16 j } s := by
  induction j with
  | zero =>
    have same : s.ioc.timers[n].counter - BitVec.ofNat 16 0 = s.ioc.timers[n].counter := BitVec.sub_zero _
    rw [same]
    exact (setTimer_self n s).symm
  | succ j ih =>
    have left : (s.ioc.timers[n].counter - BitVec.ofNat 16 j).toNat = s.ioc.timers[n].counter.toNat - j :=
      toNat_sub_ofNat (by omega)
    have counting : s.ioc.timers[n].counter - BitVec.ofNat 16 j ≠ 0#16 := fun e => by
      rw [e, BitVec.toNat_ofNat] at left
      omega
    have next : s.ioc.timers[n].counter - BitVec.ofNat 16 j - 1 = s.ioc.timers[n].counter - BitVec.ofNat 16 (j + 1) := by
      rw [BitVec.ofNat_add, BitVec.sub_sub]
      rfl
    have at_j := timers_setTimer_same n { s.ioc.timers[n] with counter := s.ioc.timers[n].counter - BitVec.ofNat 16 j } s
    rw [Function.iterate_succ_apply', ih (by omega), tickTimer_counts]
    · rw [setTimer_setTimer, at_j, next]
    · exact apart
    · rw [at_j]
      exact ready
    · rw [at_j]
      exact counting

/-- The tick after 0 is the underflow. -/
theorem tickTimer_period :
    (tickTimer n)^[s.ioc.timers[n].counter.toNat + 1] s =
      underflow n (setTimer n { s.ioc.timers[n] with counter := s.ioc.timers[n].inLatch } s) := by
  have zero : s.ioc.timers[n].counter - BitVec.ofNat 16 s.ioc.timers[n].counter.toNat = 0#16 := by
    rw [BitVec.ofNat_toNat, BitVec.setWidth_eq, BitVec.sub_self]
  have last := timers_setTimer_same n { s.ioc.timers[n] with counter := 0#16 } s
  rw [Function.iterate_succ_apply', tickTimer_iterate apart ready (Nat.le_refl _), zero, tickTimer_underflows]
  · rw [setTimer_setTimer, last]
  · exact apart
  · rw [last]
    exact ready
  · rw [last]

end

theorem timers_goTimer (n : Fin 4) (s : State) :
    (goTimer n s).ioc.timers[n] = { s.ioc.timers[n] with counter := s.ioc.timers[n].inLatch, extra := false } :=
  timers_setTimer_same n _ _

/-! ## The keyboard link (R424, R428-R431) -/

theorem reloadEvent_link {n : Fin 4} (link : n = 3) (s : State) :
    reloadEvent n s = clockRx { s with ioc := s.ioc.clockTx } := by
  subst link
  rfl

/-- A frame of the byte `b` is on KIN with `k` reloads to go, and nothing is in doubt about the receiver. -/
structure Ioc.Receiving (b : Byte) (k : Nat) (i : Ioc) : Prop where
  rx : i.rx = some (b, k)
  srx : i.srx = false
  spoiled : i.rxSpoiled = false
  ready : i.rxReady = true

theorem Ioc.Receiving.doubtful {b : Byte} {k : Nat} {i : Ioc} (h : i.Receiving b k) : i.rxDoubtful = false := by
  rw [Ioc.rxDoubtful, h.srx, h.spoiled, h.ready]
  rfl

theorem Ioc.Receiving.clockTx {b : Byte} {k : Nat} {i : Ioc} (h : i.Receiving b k) : i.clockTx.Receiving b k := by
  obtain ⟨rx, srx, spoiled, ready⟩ := h
  unfold Ioc.clockTx
  split
  · exact ⟨rx, srx, spoiled, ready⟩
  · split <;> exact ⟨rx, srx, spoiled, ready⟩

theorem clockRx_running {b : Byte} {k : Nat} {s : State} (rx : s.ioc.rx = some (b, k + 1)) (more : 0 < k) :
    clockRx s =
      if k = lastBitHalf then received b { s with ioc := { s.ioc with rx := some (b, k) } }
      else { s with ioc := { s.ioc with rx := some (b, k) } } := by
  have rest : ¬ (k + 1 ≤ 1) := by omega
  simp only [clockRx, rx, Nat.add_sub_cancel, if_neg rest]

theorem received_ready {s : State} {b : Byte} (known : s.ioc.rxDoubtful = false) (ready : s.ioc.rxReady = true) :
    (received b s).ioc.srx = true ∧ (received b s).ioc.rxData = b := by
  have low : field (b.setWidth 32) 0 8 = b := by
    ext i hi
    simp [hi, show i < 32 by omega]
  unfold received
  rw [known]
  exact ⟨by simp [ready], low⟩

section
variable {n : Fin 4} (link : n = 3) {b : Byte} {s : State}
include link

theorem reloadEvent_receiving {k : Nat} (h : s.ioc.Receiving b (k + 1)) (early : lastBitHalf < k) :
    (reloadEvent n s).ioc.Receiving b k := by
  have sent := h.clockTx
  rw [reloadEvent_link link, clockRx_running sent.rx (by omega), if_neg (Nat.ne_of_gt early)]
  exact ⟨rfl, sent.srx, sent.spoiled, sent.ready⟩

/-- Halfway through the last data bit the receiver takes the byte (R431). -/
theorem reloadEvent_takes (h : s.ioc.Receiving b (lastBitHalf + 1)) :
    (reloadEvent n s).ioc.srx = true ∧ (reloadEvent n s).ioc.rxData = b := by
  have sent := h.clockTx
  rw [reloadEvent_link link, clockRx_running sent.rx (by decide), if_pos rfl]
  exact received_ready sent.doubtful sent.ready

theorem reloads_receiving (h : s.ioc.Receiving b frameReloads) {j : Nat} (hj : j < 272) :
    ((reloadEvent n)^[j] s).ioc.Receiving b (frameReloads - j) := by
  induction j with
  | zero => exact h
  | succ j ih =>
    have length : frameReloads = 352 := rfl
    have half : lastBitHalf = 80 := rfl
    rw [Function.iterate_succ_apply']
    refine reloadEvent_receiving link ?_ (by omega)
    have before := ih (by omega)
    rwa [show frameReloads - j = frameReloads - (j + 1) + 1 by omega] at before

theorem reloads_received (h : s.ioc.Receiving b frameReloads) :
    ((reloadEvent n)^[272] s).ioc.srx = true ∧ ((reloadEvent n)^[272] s).ioc.rxData = b := by
  rw [Function.iterate_succ_apply']
  exact reloadEvent_takes link (reloads_receiving link h (j := 271) (by decide))

end

/-- The transmitter of IOC. -/
def Ioc.transmitter (i : Ioc) : Option (Byte × Nat) × Bool × List Byte := (i.tx, i.stx, i.sent)

theorem received_transmitter (b : Byte) (s : State) : (received b s).ioc.transmitter = s.ioc.transmitter := by
  unfold received
  cases s.ioc.rxDoubtful <;> rfl

theorem clockRx_transmitter (s : State) : (clockRx s).ioc.transmitter = s.ioc.transmitter := by
  unfold clockRx
  split
  · rfl
  · dsimp only
    split
    · exact received_transmitter _ _
    · rfl

section
variable {n : Fin 4} (link : n = 3) {v : Byte} {sent : List Byte} {s : State}
include link

theorem reloadEvent_sending {k : Nat} (h : s.ioc.transmitter = (some (v, k + 1), false, sent)) (more : 0 < k) :
    (reloadEvent n s).ioc.transmitter = (some (v, k), false, sent) := by
  simp only [Ioc.transmitter, Prod.mk.injEq] at h
  obtain ⟨tx, stx, others⟩ := h
  have rest : ¬ (k + 1 ≤ 1) := by omega
  rw [reloadEvent_link link, clockRx_transmitter]
  simp only [Ioc.clockTx, tx, if_neg rest, Nat.add_sub_cancel, Ioc.transmitter, stx, others]

/-- At the end of the frame the byte is sent (R429). -/
theorem reloadEvent_sent (h : s.ioc.transmitter = (some (v, 1), false, sent)) :
    (reloadEvent n s).ioc.transmitter = (none, true, sent ++ [v]) := by
  simp only [Ioc.transmitter, Prod.mk.injEq] at h
  obtain ⟨tx, -, others⟩ := h
  rw [reloadEvent_link link, clockRx_transmitter]
  simp only [Ioc.clockTx, tx, Nat.le_refl, if_true, Ioc.transmitter, others]

theorem reloads_sending (h : s.ioc.transmitter = (some (v, frameReloads), false, sent)) {j : Nat} (hj : j < 352) :
    ((reloadEvent n)^[j] s).ioc.transmitter = (some (v, frameReloads - j), false, sent) := by
  induction j with
  | zero => exact h
  | succ j ih =>
    have length : frameReloads = 352 := rfl
    rw [Function.iterate_succ_apply']
    refine reloadEvent_sending link ?_ (by omega)
    have before := ih (by omega)
    rwa [show frameReloads - j = frameReloads - (j + 1) + 1 by omega] at before

theorem reloads_unsent (h : s.ioc.transmitter = (some (v, frameReloads), false, sent)) {j : Nat} (hj : j < 352) :
    ((reloadEvent n)^[j] s).ioc.stx = false :=
  congrArg (fun x => x.2.1) (reloads_sending link h hj)

theorem reloads_sent (h : s.ioc.transmitter = (some (v, frameReloads), false, sent)) :
    ((reloadEvent n)^[352] s).ioc.stx = true ∧ ((reloadEvent n)^[352] s).ioc.sent = sent ++ [v] := by
  rw [Function.iterate_succ_apply']
  have done := reloadEvent_sent link (reloads_sending link h (j := 351) (by decide))
  exact (Prod.mk.inj (Prod.mk.inj done).2)

end

/-- The first read of the receive register makes the receiver ready (R428). -/
theorem readSerial_initialises {s : State} (h : s.ioc.rxReady = false) :
    (readSerial s).2.ioc = { s.ioc with srx := false, rxSpoiled := false, rx := none, rxReady := true } := by
  have after : s.ioc.afterRead = { s.ioc with srx := false, rxSpoiled := false, rx := none, rxReady := true } :=
    if_neg (ne_true_of_eq_false h)
  unfold readSerial
  dsimp only
  rw [after]
  split <;> rfl

/-- Settles O50: the ticks of a period, the two kinds of Go, and the reloads of a frame. -/
theorem timerPeriod : Obligations.TimerPeriod := by
  refine ⟨?period, fun n s apart extra => tickTimer_extra apart extra, ?meets, timers_goTimer, ?receive, ?send,
    fun s => readSerial_initialises⟩
  case period =>
    intro n s latch ready apart k
    have others (x : Timer) (m : Fin 4) : m ≠ n → (setTimer n x s).ioc.timers[m] = s.ioc.timers[m] :=
      fun h => timers_setTimer_other h x s
    refine ⟨?counts, ?reload⟩
    case counts =>
      intro j hj t
      have counted : t = _ := tickTimer_iterate apart ready hj
      rw [counted]
      refine ⟨?_, rfl, rfl, others _⟩
      rw [timers_setTimer_same]
      exact toNat_sub_ofNat hj
    case reload =>
      intro t
      have reloaded := timers_setTimer_same n { s.ioc.timers[n] with counter := s.ioc.timers[n].inLatch } s
      have event : t = reloadEvent n (setTimer n { s.ioc.timers[n] with counter := s.ioc.timers[n].inLatch } s) :=
        (tickTimer_period apart ready).trans (underflow_of_latch (by rw [reloaded]; exact latch))
      obtain ⟨baud, tm0, tm1⟩ :=
        reloadEvent_effects n (setTimer n { s.ioc.timers[n] with counter := s.ioc.timers[n].inLatch } s)
      rw [event]
      refine ⟨?_, fun h => tm0 h (.inl apart), fun h => tm1 h (.inl apart), baud⟩
      rw [Fin.getElem_fin, reloadEvent_timers]
      exact congrArg Timer.counter reloaded
  case meets =>
    intro n s coincides go t
    have extra := timers_setTimer_same n { s.ioc.timers[n] with extra := true } s
    have event : t = underflow n (setTimer n { s.ioc.timers[n] with extra := true } s) := tickTimer_meets coincides go
    rw [event]
    refine ⟨?_, fun latch => ?_⟩
    · rw [Fin.getElem_fin, underflow_timers]
      exact extra
    · obtain ⟨baud, tm0, tm1⟩ := reloadEvent_effects n (setTimer n { s.ioc.timers[n] with extra := true } s)
      rw [underflow_of_latch (by rw [extra]; exact latch)]
      exact ⟨baud, fun h clear => tm0 h (.inr clear), fun h clear => tm1 h (.inr clear)⟩
  case receive =>
    intro b s ready none unread unspoiled
    have started : kartFrame b s = { s with ioc := { s.ioc with rx := some (b, frameReloads) } } := by
      rw [kartFrame, none]
      exact if_neg (by simp)
    have frame : (kartFrame b s).ioc.Receiving b frameReloads := by
      rw [started]
      exact ⟨rfl, unread, unspoiled, ready⟩
    refine ⟨fun j hj => (reloads_receiving ?_ frame hj).srx, reloads_received ?_ frame⟩ <;> rfl
  case send =>
    intro v s
    have frame : (writeIocRegister 1#5 v s).ioc.transmitter = (some (v, frameReloads), false, s.ioc.sent) := rfl
    refine ⟨fun j hj => reloads_unsent ?_ frame hj, reloads_sent ?_ frame⟩ <;> rfl

end Sys2Proof.Machine
end

section
/-! PROOFS. The cache of CPU-020 (50_cache_cp15.md R280-R291): the line that a miss fetches and what later reads find in it, and
what a write does to the lines. -/

namespace Sys2Proof.Machine

theorem Bus.bind_eq_done {α β : Type} {b : Bus α} {f : α → State → Bus β} {w : β} {t : State} (h : b.bind f = .done w t) :
    ∃ v u, b = .done v u ∧ f v u = .done w t := by
  cases b with
  | done v u => exact ⟨v, u, rfl, h⟩
  | abort u | held u | refused r => cases h

theorem spaceOf_congr {s t : State} (h : t.cp15 = s.cp15) (tr : Bool) : spaceOf tr t = spaceOf tr s := by
  rw [spaceOf, spaceOf, h]

/-! ## Hits (R281) -/

theorem lineMatches_iff {tag : BitVec 22} {space : Space} {l : CacheLine} :
    lineMatches tag space l = true ↔ l.tag = tag ∧ l.space = space := by
  rw [lineMatches, Bool.and_eq_true, beq_iff_eq, beq_iff_eq]

theorem memRead_hit {a : Addr} {tr : Bool} {s : State} {l : CacheLine} (on : cacheOn s = true)
    (hit : cacheLookup a tr s = some l) : memRead a tr s = .done (lineWord l a) s := by
  rw [memRead, if_pos on, hit]

/-- The line that is first in the cache. -/
theorem memRead_first {b : Addr} {tr : Bool} {s : State} {l : CacheLine} {rest : List CacheLine} (on : cacheOn s = true)
    (first : s.cache = l :: rest) (tag : l.tag = tagOf b) (space : l.space = spaceOf tr s) :
    memRead b tr s = .done (lineWord l b) s := by
  refine memRead_hit on ?_
  rw [cacheLookup, first, List.find?_cons_of_pos (lineMatches_iff.2 ⟨tag, space⟩)]

/-- The word that address bits 3:2 select, in the form of the statement. -/
theorem lineWord_eq (l : CacheLine) (b : Addr) :
    lineWord l b =
      if field b 2 2 = 0#2 then l.w0 else if field b 2 2 = 1#2 then l.w1 else if field b 2 2 = 2#2 then l.w2
      else l.w3 := by
  unfold lineWord
  obtain h | h | h | h := pageSize_cases (field b 2 2) <;> rw [h] <;> rfl

/-! ## The line fetch (R283) -/

theorem insertLine_first (l : CacheLine) (s : State) : ∃ rest, (insertLine l s).cache = l :: rest := by
  unfold insertLine
  dsimp only
  split <;> exact ⟨_, rfl⟩

theorem memRead_miss {a : Addr} {tr : Bool} {s : State} (on : cacheOn s = true) (miss : cacheLookup a tr s = none)
    (area : cacheable a s = true) : memRead a tr s = lineFetch a tr s := by
  rw [memRead, if_pos on, miss]
  exact if_pos area

/-- A line fetch that is answered keeps a line for the address, and answers its word. -/
theorem lineFetch_done {a : Addr} {tr : Bool} {s t : State} {w : Word} (h : lineFetch a tr s = .done w t) :
    ∃ (l : CacheLine) (u : State), l.tag = tagOf a ∧ l.space = spaceOf tr u ∧ w = lineWord l a ∧ t = insertLine l u := by
  rw [lineFetch_eq] at h
  obtain ⟨w0, s0, -, h⟩ := Bus.bind_eq_done h
  obtain ⟨w1, s1, -, h⟩ := Bus.bind_eq_done h
  obtain ⟨w2, s2, -, h⟩ := Bus.bind_eq_done h
  obtain ⟨w3, u, -, h⟩ := Bus.bind_eq_done h
  cases h
  exact ⟨_, u, rfl, rfl, rfl, rfl⟩

/-- Reads of its line after a line fetch. -/
theorem memRead_insertLine {b : Addr} {tr : Bool} {u : State} {l : CacheLine} (on : cacheOn (insertLine l u) = true)
    (tag : l.tag = tagOf b) (space : l.space = spaceOf tr u) :
    memRead b tr (insertLine l u) = .done (lineWord l b) (insertLine l u) := by
  obtain ⟨rest, first⟩ := insertLine_first l u
  exact memRead_first on first tag (space.trans (spaceOf_congr (insertLine_same l u).1.cp15 tr).symm)

theorem memRead_cacheOn {a : Addr} {tr : Bool} {s t : State} {w : Word} (h : memRead a tr s = .done w t) :
    cacheOn t = cacheOn s := by
  have same := memRead_same a tr s
  rw [h] at same
  exact same.1.cacheOn

section
variable {a : Addr} {tr : Bool} {s : State} (on : cacheOn s = true) (miss : cacheLookup a tr s = none)
  (area : cacheable a s = true)
include on miss area

theorem memRead_filled {t : State} {w : Word} (h : memRead a tr s = .done w t) :
    memRead a tr t = .done w t ∧ ∀ b, tagOf b = tagOf a → ∃ v, memRead b tr t = .done v t := by
  have still := (memRead_cacheOn h).trans on
  rw [memRead_miss on miss area] at h
  obtain ⟨l, u, tag, space, rfl, rfl⟩ := lineFetch_done h
  exact ⟨memRead_insertLine still tag space,
    fun b hb => ⟨_, memRead_insertLine still (tag.trans hb.symm) space⟩⟩

/-- Four external reads that are answered fill the line with their words. -/
theorem memRead_fills {s0 s1 s2 s3 : State} {w0 w1 w2 w3 : Word}
    (h0 : extRead (field a 4 22 ++ 0#4) tr s = .done w0 s0) (h1 : extRead (field a 4 22 ++ 0#4 + 4) tr s0 = .done w1 s1)
    (h2 : extRead (field a 4 22 ++ 0#4 + 8) tr s1 = .done w2 s2)
    (h3 : extRead (field a 4 22 ++ 0#4 + 12) tr s2 = .done w3 s3) :
    ∃ t, memRead a tr s = .done (lineWord ⟨tagOf a, spaceOf tr s3, w0, w1, w2, w3⟩ a) t ∧
      ∀ b, tagOf b = tagOf a → memRead b tr t = .done (lineWord ⟨tagOf a, spaceOf tr s3, w0, w1, w2, w3⟩ b) t := by
  have read : memRead a tr s = .done (lineWord ⟨tagOf a, spaceOf tr s3, w0, w1, w2, w3⟩ a)
      (insertLine ⟨tagOf a, spaceOf tr s3, w0, w1, w2, w3⟩ s3) := by
    rw [memRead_miss on miss area, lineFetch_eq, h0, Bus.bind_done, laterRead, h1, Bus.bind_done, laterRead, h2,
      Bus.bind_done, laterRead, h3]
    rfl
  have still := (memRead_cacheOn read).trans on
  exact ⟨_, read, fun b hb => memRead_insertLine still hb.symm rfl⟩

end

/-! ## The words of memory (R45, R283) -/

/-- The address of the word of a line that bits 3:2 select. -/
theorem alignWord_of_line {a b : Addr} (line : tagOf b = tagOf a) {k : Nat} (hk : (field b 2 2).toNat = k) :
    alignWord (field a 4 22 ++ 0#4 + BitVec.ofNat 26 (4 * k)) = alignWord b := by
  have := b.isLt
  have tag : (field a 4 22).toNat = b.toNat / 16 := by
    rw [← show field b 4 22 = field a 4 22 from line, field, BitVec.extractLsb'_toNat, Nat.shiftRight_eq_div_pow]
    omega
  have base : (field a 4 22 ++ 0#4).toNat = b.toNat / 16 * 16 := by
    rw [toNat_append_eq, tag, BitVec.toNat_ofNat]
    omega
  have place : b.toNat / 4 % 4 = k := by
    rw [← hk, field, BitVec.extractLsb'_toNat, Nat.shiftRight_eq_div_pow]
  refine BitVec.eq_of_toNat_eq ?_
  rw [toNat_alignWord, toNat_alignWord, BitVec.toNat_add, base, BitVec.toNat_ofNat]
  omega

/-- The words of memory at a line, selected by an address of the line, are the word of memory at the address. -/
theorem lineWord_memory {a b : Addr} (line : tagOf b = tagOf a) (m : Memory) (space : Space) :
    lineWord ⟨tagOf a, space, m.readWord (alignWord (field a 4 22 ++ 0#4)).toNat,
        m.readWord (alignWord (field a 4 22 ++ 0#4 + 4)).toNat, m.readWord (alignWord (field a 4 22 ++ 0#4 + 8)).toNat,
        m.readWord (alignWord (field a 4 22 ++ 0#4 + 12)).toNat⟩ b = m.readWord (alignWord b).toNat := by
  have there {k : Nat} (hk : (field b 2 2).toNat = k) := alignWord_of_line line hk
  unfold lineWord
  obtain h | h | h | h := pageSize_cases (field b 2 2)
  · rw [h, ← there (k := 0) (by rw [h]; rfl), BitVec.add_zero]
    rfl
  · rw [h, ← there (k := 1) (by rw [h]; rfl)]
    rfl
  · rw [h, ← there (k := 2) (by rw [h]; rfl)]
    rfl
  · rw [h, ← there (k := 3) (by rw [h]; rfl)]
    rfl

/-- Settles O52: a hit, a miss that is answered, its words, and the words of flat memory. -/
theorem cacheFillThenHit : Obligations.CacheFillThenHit := by
  refine ⟨?hit, ?filled, ?words, ?flat⟩
  case hit => exact fun a tr s l on hit => memRead_hit on hit
  case filled => exact fun a tr s t w on miss area h => memRead_filled on miss area h
  case words =>
    intro a tr s s0 s1 s2 s3 w0 w1 w2 w3 on miss area base word h0 h1 h2 h3
    have select (b : Addr) : word b = lineWord ⟨tagOf a, spaceOf tr s3, w0, w1, w2, w3⟩ b :=
      (lineWord_eq ⟨tagOf a, spaceOf tr s3, w0, w1, w2, w3⟩ b).symm
    obtain ⟨t, read, later⟩ := memRead_fills on miss area h0 h1 h2 h3
    refine ⟨t, ?_, fun b hb => ?_⟩
    · rw [select]
      exact read
    · rw [select]
      exact later b hb
  case flat =>
    intro a tr s flat uncut quiet on miss area
    have first (b : Addr) : extRead b tr s = .done (s.mem.readWord (alignWord b).toNat) (separate s) := by
      rw [extRead_flat uncut flat, takeBatch_quiet quiet]
    have later (b : Addr) : extRead b tr (separate s) = .done (s.mem.readWord (alignWord b).toNat) (separate s) := by
      rw [extRead_flat (s := separate s) uncut flat, takeBatch_quiet (s := separate s) quiet]
      rfl
    have fills := memRead_fills on miss area (first _) (later _) (later _) (later _)
    simp only [lineWord_memory rfl] at fills
    obtain ⟨t, read, later⟩ := fills
    exact ⟨t, read, fun b hb => (later b hb).trans (by rw [lineWord_memory hb])⟩

/-! ## What an external write leaves of the cache -/

section
variable {c : List CacheLine} {s : State} (h : s.cache = c)
include h

theorem latchEvent_cache (k : Fin 5) : (latchEvent k s).cache = c := by
  unfold latchEvent
  dsimp only
  repeat' split
  all_goals exact h

theorem sampleEdges_cache : (sampleEdges s).cache = c := by
  have edge {t : State} (ht : t.cache = c) (b : Bool) (k : Fin 5) : (if b then latchEvent k t else t).cache = c := by
    split
    · exact latchEvent_cache ht k
    · exact ht
  have sampled (nif ir : Bool) : { s with ioc := { s.ioc with prevIf := nif, prevIr := ir } }.cache = c := h
  unfold sampleEdges
  dsimp only
  split
  · exact h
  · exact edge (edge (sampled _ _) _ _) _ _

theorem ramTarget_cache (pa : Nat) : leaves (fun t => t.cache = c) (ramTarget pa s) := by
  unfold ramTarget
  split
  · exact h
  · trivial

theorem logicalTarget_cache (write : Bool) (a : Addr) (tr : Bool) :
    leaves (fun t => t.cache = c) (logicalTarget write a tr s) := by
  unfold logicalTarget
  dsimp only
  split
  · exact h
  · split
    · exact ramTarget_cache h _
    · exact h
  · split
    · exact h
    · exact ramTarget_cache (s := (drawWord s).2) h _

theorem busTarget_cache (write : Bool) (a : Addr) (tr : Bool) :
    leaves (fun t => t.cache = c) (busTarget write a tr s) := by
  have booted : (bootStep a s).cache = c := h
  unfold busTarget memcTarget
  dsimp only
  repeat' with_reducible apply leaves_ite
  all_goals first
    | exact h
    | exact booted
    | exact logicalTarget_cache booted _ _ _
    | exact ramTarget_cache booted _

theorem ioWrite_cache (a : Addr) (d : Word) : leaves (fun t => t.cache = c) (ioWrite a d s) := by
  unfold ioWrite writeIocRegister writeTimer
  dsimp only
  repeat' split
  all_goals exact h

theorem writeVidc_cache (d : Word) : leaves (fun t => t.cache = c) (writeVidc d s) := by
  unfold writeVidc
  dsimp only
  repeat' split
  · trivial
  · exact h
  · exact h

theorem writeMemcRegister_cache (a : Addr) : leaves (fun t => t.cache = c) (writeMemcRegister a s) := by
  have sized : (setPageSize (field a 2 2) s).cache = c := by
    unfold setPageSize
    split <;> exact h
  unfold writeMemcRegister
  dsimp only
  split
  case h_8 =>
    unfold writeMemcControl
    dsimp only
    split <;> exact sized
  all_goals exact h

theorem writeTranslator_cache (a : Addr) : leaves (fun t => t.cache = c) (writeTranslator a s) := by
  unfold writeTranslator
  dsimp only
  split
  · trivial
  · exact h

end

/-- An external write leaves the lines that other agents leave before it (R286). -/
theorem extWrite_cache {s : State} (uncut : s.cut = none) (a : Addr) (z : Size) (d : Word) (tr : Bool) :
    leaves (fun t => t.cache = (takeBatch s).cache) (extWrite a z d tr s) := by
  rw [extWrite, startAccess_uncut uncut, Bus.bind_done]
  refine leaves_bind (busTarget_cache rfl true a tr) fun x t _ ht => ?_
  cases x <;> dsimp only
  case memory => cases z <;> exact ht
  case bootRam => exact ht
  case io => exact leaves_bind (ioWrite_cache ht a d) fun _ v _ hv => sampleEdges_cache hv
  case vidc =>
    split
    · exact leaves_bind (writeVidc_cache ht d) fun _ v _ hv => sampleEdges_cache hv
    · exact ht
  case register => exact leaves_bind (writeMemcRegister_cache ht a) fun _ v _ hv => sampleEdges_cache hv
  case translator => exact leaves_bind (writeTranslator_cache ht a) fun _ _ _ hv => hv

/-! ## Writes (R286, R290) -/

/-- A line after a store to its key. -/
def storedLine (a : Addr) (size : Size) (d : Word) (space : Space) (l : CacheLine) : CacheLine :=
  if lineMatches (tagOf a) space l then setLineWord l a (mergeWord a size d (lineWord l a)) else l

theorem storedLine_key (a : Addr) (size : Size) (d : Word) (space : Space) (l : CacheLine) :
    (storedLine a size d space l).tag = l.tag ∧ (storedLine a size d space l).space = l.space := by
  unfold storedLine
  split
  · exact Prod.mk.inj (setLineWord_key l a _)
  · exact ⟨rfl, rfl⟩

theorem find?_storedLine (a : Addr) (size : Size) (d : Word) (space : Space) (lines : List CacheLine) (g : BitVec 22)
    (p : Space) :
    (lines.map (storedLine a size d space)).find? (lineMatches g p) =
      (lines.find? (lineMatches g p)).map (storedLine a size d space) := by
  have keys : lineMatches g p ∘ storedLine a size d space = lineMatches g p := by
    funext l
    obtain ⟨tag, same⟩ := storedLine_key a size d space l
    simp only [Function.comp_apply, lineMatches, tag, same]
  rw [List.find?_map, keys]

/-- A store changes the line under its key. -/
theorem find?_storedLine_same {a : Addr} {size : Size} {d : Word} {space : Space} {lines : List CacheLine} {l : CacheLine}
    (h : lines.find? (lineMatches (tagOf a) space) = some l) :
    (lines.map (storedLine a size d space)).find? (lineMatches (tagOf a) space) =
      some (setLineWord l a (mergeWord a size d (lineWord l a))) := by
  rw [find?_storedLine, h]
  exact congrArg some (if_pos (List.find?_some h))

/-- And no other. -/
theorem find?_storedLine_other {a : Addr} {size : Size} {d : Word} {space : Space} {lines : List CacheLine} {g : BitVec 22}
    {p : Space} (h : ¬ (g = tagOf a ∧ p = space)) :
    (lines.map (storedLine a size d space)).find? (lineMatches g p) = lines.find? (lineMatches g p) := by
  rw [find?_storedLine]
  cases found : lines.find? (lineMatches g p) with
  | none => rfl
  | some l =>
    obtain ⟨tag, mine⟩ := lineMatches_iff.1 (List.find?_some found)
    refine congrArg some (if_neg fun hit => h ?_)
    obtain ⟨own, ownSpace⟩ := lineMatches_iff.1 hit
    exact ⟨tag.symm.trans own, mine.symm.trans ownSpace⟩

/-- The cache after a write, by the area of the address (R286, R290). -/
theorem cacheWrite_cache {s : State} (cpu : s.plat.cpu = .cpu020) (a : Addr) (size : Size) (d : Word) (tr aborted : Bool) :
    (cacheWrite a size d tr aborted s).cache =
      if disruptive a s then []
      else if !aborted && updateable a s then s.cache.map (storedLine a size d (spaceOf tr s))
      else s.cache := by
  rw [cacheWrite, if_pos cpu]
  split
  · rfl
  · split <;> rfl

theorem overlapPrefetch_cache (a : Addr) (size : Size) (d : Word) (s : State) :
    (overlapPrefetch a size d s).cache = s.cache := by
  unfold overlapPrefetch
  split <;> rfl

/-- The cache after a write, from the one that other agents leave before it. -/
theorem memWrite_cache {a : Addr} {size : Size} {d : Word} {tr : Bool} {s : State} (cpu : s.plat.cpu = .cpu020)
    (uncut : s.cut = none) :
    (∀ t, memWrite a size d tr s = .abort t → t.cache = if disruptive a s then [] else (takeBatch s).cache) ∧
    (∀ t, memWrite a size d tr s = .done () t → t.cache =
      if disruptive a s then []
      else if updateable a s then (takeBatch s).cache.map (storedLine a size d (spaceOf tr s))
      else (takeBatch s).cache) := by
  have cycle := leaves_and (extWrite_cache uncut a size d tr) (extWrite_core a size d tr s)
  have written (aborted : Bool) {t : State} (h : t.cache = (takeBatch s).cache ∧ SameCore s t) :
      (cacheWrite a size d tr aborted t).cache =
        if disruptive a s then []
        else if !aborted && updateable a s then (takeBatch s).cache.map (storedLine a size d (spaceOf tr s))
        else (takeBatch s).cache := by
    obtain ⟨cache, core⟩ := h
    rw [cacheWrite_cache (by rw [core.plat]; exact cpu), disruptive, updateable, spaceOf_congr core.cp15, core.cp15, cache]
    rfl
  unfold memWrite
  revert cycle
  cases extWrite a size d tr s with
  | done stored t =>
    refine fun h => ⟨fun _ no => (nomatch no), fun u hu => ?_⟩
    cases hu
    have done := written false h
    cases stored
    · exact done
    · exact (overlapPrefetch_cache _ _ _ _).trans done
  | abort t =>
    refine fun h => ⟨fun u hu => ?_, fun _ no => (nomatch no)⟩
    cases hu
    exact written true h
  | held t | refused r => exact fun _ => ⟨fun _ no => (nomatch no), fun _ no => (nomatch no)⟩

/-- Settles O53: the cache after the write, and what a lookup finds in it. -/
theorem cacheWrites : Obligations.CacheWrites := by
  intro a size d tr s t cpu uncut before
  obtain ⟨aborted, answered⟩ := memWrite_cache (a := a) (size := size) (d := d) (tr := tr) cpu uncut
  refine ⟨fun quiet => ?_, aborted t, fun done => ⟨fun area => ?_, fun area copied => ?_, fun area uncopied => ?_⟩⟩
  · exact (congrArg State.cache (takeBatch_quiet quiet) : (takeBatch s).cache = (separate s).cache)
  · rw [answered t done, if_pos area]
  · have core := memWrite_core a size d tr s
    rw [done] at core
    have cache : t.cache = before.cache.map (storedLine a size d (spaceOf tr s)) := by
      rw [answered t done, if_neg (ne_true_of_eq_false area), if_pos copied]
    have space (x : Bool) : spaceOf x t = spaceOf x s := spaceOf_congr core.cp15 x
    have spaceBefore (x : Bool) : spaceOf x before = spaceOf x s := spaceOf_congr (takeBatch_same s).1.cp15 x
    refine ⟨fun l hit => ?_, fun b x other => ?_, fun g p other => ?_, fun b x none => ?_, ?_⟩
    · rw [cacheLookup, spaceBefore] at hit
      rw [cacheLookup, space, cache]
      exact find?_storedLine_same hit
    · rw [cacheLookup, cacheLookup, space, spaceBefore, cache]
      exact find?_storedLine_other other
    · rw [cache]
      exact find?_storedLine_other other
    · rw [cacheLookup, spaceBefore] at none
      rw [cacheLookup, space, cache, find?_storedLine, none]
      rfl
    · rw [cache, List.length_map]
  · rw [answered t done, if_neg (ne_true_of_eq_false area), if_neg (ne_true_of_eq_false uncopied)]

end Sys2Proof.Machine
end

section
/-! PROOFS. System reset (70_reset_and_hazards.md R490-R493, 60_exceptions.md R452): the state it ends in, and what is left of the
instruction that it abandons. -/

namespace Sys2Proof.Machine

/-! ## The state after a reset -/

theorem latchEvent_memc (k : Fin 5) (s : State) : (latchEvent k s).memc = s.memc := by
  unfold latchEvent
  dsimp only
  repeat' split
  all_goals rfl

theorem sampleEdges_memc (s : State) : (sampleEdges s).memc = s.memc := by
  have edge {t : State} (ht : t.memc = s.memc) (b : Bool) (k : Fin 5) :
      (if b then latchEvent k t else t).memc = s.memc := by
    split
    · exact (latchEvent_memc k t).trans ht
    · exact ht
  have sampled (nif ir : Bool) : { s with ioc := { s.ioc with prevIf := nif, prevIr := ir } }.memc = s.memc := rfl
  unfold sampleEdges
  dsimp only
  split
  · rfl
  · exact edge (edge (sampled _ _) _ _) _ _

theorem systemReset_memc (kind : ResetKind) (s : State) : (systemReset kind s).memc = (resetEntry kind s).memc := by
  rw [systemReset_eq]
  split
  · rfl
  · exact sampleEdges_memc _

theorem setPageSize_pageSize (code : BitVec 2) (s : State) : (setPageSize code s).memc.pageSize = code := by
  unfold setPageSize
  split
  · next same => exact same
  · rfl

/-- MEMC after a reset (R342). -/
theorem resetMemc_memc (s : State) :
    (resetMemc s).memc.boot = .boot0 ∧ (resetMemc s).memc.pageSize = 0 ∧ (resetMemc s).memc.lowRom = 0 ∧
      (resetMemc s).memc.highRom = 0 ∧ (resetMemc s).memc.osMode = false ∧ (resetMemc s).memc.soundDma = false ∧
      (resetMemc s).memc.testMode = false ∧ (resetMemc s).memc.nextValid = false := by
  have sized := setPageSize_pageSize 0#2 s
  unfold resetMemc
  revert sized
  generalize setPageSize 0#2 s = t
  exact fun sized => ⟨rfl, sized, rfl, rfl, rfl, rfl, rfl, rfl⟩

theorem resetEntry_memc (kind : ResetKind) (s : State) :
    (resetEntry kind s).memc = (resetMemc (resetStart kind s)).memc := rfl

/-- The processor and coprocessor 15 after a reset (R452, R493). -/
theorem resetEntry_processor (kind : ResetKind) (s : State) :
    (resetEntry kind s).psr = { (resetStart kind s).psr with i := true, f := true, mode := .svc } ∧
      (resetEntry kind s).pc = 0 ∧ (resetEntry kind s).cp15.r2 = 0 ∧ (resetEntry kind s).held = none ∧
      (resetEntry kind s).cache = [] ∧ (resetEntry kind s).mem = (resetStart kind s).mem ∧
      ∀ q, q ≠ .svc 1 → getPhys (resetEntry kind s).regs q = getPhys (resetStart kind s).regs q := by
  have core := resetMemc_core (resetStart kind s)
  have mem := resetMemc_mem (resetStart kind s)
  unfold resetEntry resetIoc
  revert core mem
  generalize resetMemc (resetStart kind s) = t
  intro core mem
  refine ⟨?_, rfl, rfl, rfl, rfl, mem, fun q hq => ?_⟩
  · rw [← core.psr, enterWith_psr, show Exc.reset.setsF = true from rfl, Bool.or_true]
    rfl
  · rw [← core.regs]
    exact getPhys_setPhys_ne t.regs _ hq

/-- IOC after a reset (R438). -/
theorem resetEntry_ioc (kind : ResetKind) (s : State) :
    (resetEntry kind s).ioc.ctrl = 0x3F#6 ∧ (kind = .powerOn → bit (resetEntry kind s).ioc.latA 2 = true) ∧
      (kind = .warm → (resetEntry kind s).ioc.maskA = s.ioc.maskA ∧ (resetEntry kind s).ioc.maskB = s.ioc.maskB ∧
        (resetEntry kind s).ioc.maskF = s.ioc.maskF) := by
  have ioc : kind = .warm → (resetMemc (resetStart kind s)).ioc = s.ioc := by
    rintro rfl
    unfold resetMemc setPageSize
    split <;> rfl
  unfold resetEntry resetIoc
  revert ioc
  generalize resetMemc (resetStart kind s) = t
  intro ioc
  refine ⟨?_, ?_, ?_⟩
  · cases kind <;> rfl
  · rintro rfl
    have latched (x : BitVec 5) : bit (x ||| 1#5 <<< 2) 2 = true := by
      simp [bit]
    exact latched _
  · rintro rfl
    rw [← ioc rfl]
    exact ⟨rfl, rfl, rfl⟩

/-- The settings of IOC that a reset leaves are those before its edge detectors look. -/
theorem systemReset_ioc (kind : ResetKind) (s : State) :
    (systemReset kind s).ioc.ctrl = (resetEntry kind s).ioc.ctrl ∧
      (systemReset kind s).ioc.maskA = (resetEntry kind s).ioc.maskA ∧
      (systemReset kind s).ioc.maskB = (resetEntry kind s).ioc.maskB ∧
      (systemReset kind s).ioc.maskF = (resetEntry kind s).ioc.maskF := by
  have same := (systemReset_undisturbed kind s).ioc
  simp only [Ioc.settings, Prod.mk.injEq] at same
  obtain ⟨ctrl, -, maskA, maskB, maskF, -⟩ := same
  exact ⟨ctrl, maskA, maskB, maskF⟩

/-! ## What is left of an abandoned instruction (R491) -/

theorem getPhys_spoilRegs {n : Nat} {ps : List PhysReg} {q : PhysReg} (hq : q ∉ ps) (r : RegFile) :
    getPhys (spoilRegs n ps r) q = getPhys r q := by
  have kept (l : List (PhysReg × Nat)) (hl : ∀ x ∈ l, x.1 ∈ ps) (r : RegFile) :
      getPhys (l.foldl (fun r x => if Config.freeBit n (5000 + 2 * x.2) then
        setPhys r x.1 (Config.freeWord n (5001 + 2 * x.2)) else r) r) q = getPhys r q := by
    induction l generalizing r with
    | nil => rfl
    | cons x l ih =>
      have other : q ≠ x.1 := fun e => hq (e ▸ hl x (List.mem_cons_self ..))
      refine (ih (fun y hy => hl y (List.mem_cons_of_mem _ hy)) _).trans ?_
      dsimp only
      split
      · exact getPhys_setPhys_ne r _ other
      · rfl
  exact kept _ (fun x hx => (List.mem_zipIdx' hx).2 ▸ List.getElem_mem _) r

theorem mixFlags_cases (n : Nat) (a b : Psr) :
    ((mixFlags n a b).n = a.n ∨ (mixFlags n a b).n = b.n) ∧ ((mixFlags n a b).z = a.z ∨ (mixFlags n a b).z = b.z) ∧
      ((mixFlags n a b).c = a.c ∨ (mixFlags n a b).c = b.c) ∧ ((mixFlags n a b).v = a.v ∨ (mixFlags n a b).v = b.v) := by
  have pick (p : Bool) (x y : Bool) : (if p then y else x) = x ∨ (if p then y else x) = y := by
    cases p
    · exact .inl rfl
    · exact .inr rfl
  exact ⟨pick _ _ _, pick _ _ _, pick _ _ _, pick _ _ _⟩

theorem mixFlags_self (n : Nat) (p : Psr) : mixFlags n p p = p := by
  simp only [mixFlags, ite_self]

/-- What a cut instruction leaves at its own access: everything but the registers that it may write. -/
theorem halfDone_self (i : Instr) (s : State) :
    (halfDone true i s s).psr = s.psr ∧ (halfDone true i s s).mem = s.mem ∧
      ∀ q, q ∉ mayWritePhys true i s → getPhys (halfDone true i s s).regs q = getPhys s.regs q := by
  unfold halfDone
  dsimp only
  split
  · exact ⟨mixFlags_self _ _, rfl, fun q hq => getPhys_spoilRegs hq _⟩
  · exact ⟨rfl, rfl, fun q _ => rfl⟩

/-- What is left of an instruction that is abandoned: its accesses and commands, the registers that it cannot write, and flags
from before or after it. -/
theorem abandoned_left {i : Instr} {s t : State} (h : exec i s = .next t) :
    ∃ u, abandoned exec i s = .next u ∧
      u.mem = t.mem ∧ u.memc = t.memc ∧ u.vidc = t.vidc ∧ u.ioc = t.ioc ∧ u.cache = t.cache ∧ u.coprocs = t.coprocs ∧
      u.devices = t.devices ∧
      (∀ q, q ∉ mayWritePhys false i s → getPhys u.regs q = getPhys s.regs q) ∧
      (u.psr.n = s.psr.n ∨ u.psr.n = t.psr.n) ∧ (u.psr.z = s.psr.z ∨ u.psr.z = t.psr.z) ∧
      (u.psr.c = s.psr.c ∨ u.psr.c = t.psr.c) ∧ (u.psr.v = s.psr.v ∨ u.psr.v = t.psr.v) := by
  refine ⟨halfDone false i s t, by rw [abandoned, h], ?_⟩
  cases passes : condPassed i.cond s.psr with
  | true =>
    rw [halfDone, if_pos passes]
    exact ⟨rfl, rfl, rfl, rfl, rfl, rfl, rfl, fun q hq => getPhys_spoilRegs hq _, mixFlags_cases _ _ _⟩
  | false =>
    rw [exec_of_condition_false passes] at h
    cases h
    rw [halfDone, if_neg (ne_true_of_eq_false passes)]
    exact ⟨rfl, rfl, rfl, rfl, rfl, rfl, rfl, fun _ _ => rfl, .inl rfl, .inl rfl, .inl rfl, .inl rfl⟩

/-! ## A reset input -/

theorem takeReset_of_left {b : Boundary} {r : ResetInput} {s u : State}
    (long : ¬ (s.plat.cpu = .cpu020 ∧ r.tooShort = true)) (left : runAbandoned exec b r.abandons s = .next u) :
    takeReset exec b r s = .next (systemReset r.kind u) := by
  rw [takeReset, if_neg long, left]

theorem runAbandoned_held {b : Boundary} {s : State} (h : s.held ≠ none) (abandons : Option Nat) :
    runAbandoned exec b abandons s = abandonHeld exec abandons s := by
  obtain ⟨r, held⟩ := Option.ne_none_iff_exists'.1 h
  simp only [runAbandoned, held]

/-- Held at one of its own accesses, with the pipeline full, the instruction is half done. -/
theorem abandonHeld_full {s : State} {w : Word} {priv : Bool} {x y : Slot} (full : s.pipe = [⟨.word w, priv⟩, x, y])
    (abandons : Option Nat) : abandonHeld exec abandons s = .next (halfDone true (decode s.plat.cpu w) s s) := by
  simp only [abandonHeld, full]

/-- Held before its own prefetch, or at it and not abandoned, it has not begun. -/
theorem abandonHeld_unbegun {s : State} {abandons : Option Nat}
    (short : s.pipe.length ≤ 1 ∨ (s.pipe.length = 2 ∧ abandons = none)) : abandonHeld exec abandons s = .next s := by
  unfold abandonHeld
  split
  · next full => simp [full] at short
  · next two =>
    cases abandons with
    | none => rfl
    | some n => simp [two] at short
  · rfl

/-- Held at the prefetch that goes with its execution and abandoned, it runs up to its first access. -/
theorem abandonHeld_begun {s : State} (two : s.pipe.length = 2) (n : Nat) :
    abandonHeld exec (some n) s = executeHead (abandoned exec) { s with held := none, cut := some 0 } := by
  obtain ⟨x, y, pipe⟩ := List.length_eq_two.1 two
  simp only [abandonHeld, pipe]

/-- A cut instruction is held at its next access. -/
theorem startAccess_cut {s : State} (h : s.cut = some 0) : startAccess s = .held s := by
  rw [startAccess, h]

/-- Settles O55: the state of a reset, the input by what it finds, and what an abandoned instruction leaves. -/
theorem systemReset_holds : Obligations.SystemReset := by
  refine ⟨?state, ?input, fun i s t => abandoned_left, halfDone_self, ?cut⟩
  case state =>
    intro kind s t
    obtain ⟨same, mem⟩ := systemReset_same kind s
    have chips := systemReset_undisturbed kind s
    obtain ⟨psr, pc, r2, held, cache, entryMem, regs⟩ := resetEntry_processor kind s
    obtain ⟨ctrl, maskA, maskB, maskF⟩ := systemReset_ioc kind s
    obtain ⟨entryCtrl, por, masks⟩ := resetEntry_ioc kind s
    have memc : t.memc = (resetMemc (resetStart kind s)).memc :=
      (systemReset_memc kind s).trans (resetEntry_memc kind s)
    have flags : t.psr = { (resetStart kind s).psr with i := true, f := true, mode := .svc } := same.psr.trans psr
    refine ⟨⟨?_, ?_, ?_, same.pc.trans pc, systemReset_pipe kind s, ?_, ?_, chips.held.trans held, ?_⟩, ?_, ?_⟩
    · rw [flags]
    · rw [flags]
    · rw [flags]
    · exact List.sublist_nil.1 (cache ▸ chips.cache)
    · exact (congrArg Cp15.r2 same.cp15).trans r2
    · rw [memc]
      obtain ⟨boot, pageSize, lowRom, highRom, osMode, soundDma, testMode, nextValid⟩ := resetMemc_memc (resetStart kind s)
      exact ⟨boot, pageSize, lowRom, highRom, osMode, soundDma, testMode, nextValid, ctrl.trans entryCtrl⟩
    · rintro rfl
      exact por rfl
    · rintro rfl
      obtain ⟨entryA, entryB, entryF⟩ := masks rfl
      refine ⟨mem.trans entryMem, maskA.trans entryA, maskB.trans entryB, maskF.trans entryF, ?_, ?_, ?_, ?_, fun q hq => ?_⟩
      · rw [flags]; rfl
      · rw [flags]; rfl
      · rw [flags]; rfl
      · rw [flags]; rfl
      · rw [same.regs]
        exact regs q hq
  case input =>
    intro b r s long
    refine ⟨fun none running => ?_, fun w priv sl₁ sl₂ held full => ?_, fun held short => ?_, fun n u held two some run => ?_,
      fun n u some running run => ?_⟩
    · exact takeReset_of_left long (by simp only [runAbandoned, running, none])
    · exact takeReset_of_left long ((runAbandoned_held held _).trans (abandonHeld_full full _))
    · exact takeReset_of_left long ((runAbandoned_held held _).trans (abandonHeld_unbegun short))
    · refine takeReset_of_left long ((runAbandoned_held held _).trans ?_)
      rw [some, abandonHeld_begun two]
      exact run
    · refine takeReset_of_left long ?_
      simp only [runAbandoned, running, some]
      rw [← running]
      exact run
  case cut =>
    intro a size d tr s cut
    have write : extWrite a size d tr s = .held s := by rw [extWrite, startAccess_cut cut, Bus.bind_held]
    exact ⟨by rw [extRead, startAccess_cut cut, Bus.bind_held], by rw [memWrite, write]⟩

end Sys2Proof.Machine
end
